-- ==== Sys2Proof/Word.lean ====
section
/-! DEFINITION. The word types of the machine (00_scope.md R9; 30_encoding.md R91): a byte, a 16-bit word, the
four-bit and twelve-bit fields of an instruction, and the register index a four-bit field selects. -/

namespace Sys2Proof

/-- A byte, the only addressable unit (20_memory.md R61). -/
abbrev Byte := BitVec 8

/-- A 16-bit value: PC, I, a stack entry, an instruction word (10_state.md R22, R24, R25; 30_encoding.md R90). -/
abbrev Word := BitVec 16

/-- One hexadecimal digit of an instruction word (00_scope.md R10). -/
abbrev Nibble := BitVec 4

/-- The 12-bit address immediate nnn (30_encoding.md R91). -/
abbrev Addr12 := BitVec 12

/-- The index of one of sixteen like things: a general register, a flag register, a key. -/
abbrev RegIdx := Fin 16

/-- VF is V[15] (10_state.md R21). -/
abbrev vfIdx : RegIdx := 15

end Sys2Proof
end

