-- ==== Sys2Proof/Config.lean ====
section
/-! DEFINITION. What is fixed for one machine (00_scope.md R7) and the free values the spec leaves open: the font
tables and the random byte, which are constants with no body, so that no proof can see their values. -/

namespace Sys2Proof

/-- The variant input: 0 = CHIP-8, 1 = SUPER-CHIP (10_state.md R41; 00_scope.md R11). -/
inductive Variant where
  | chip8
  | schip
  deriving DecidableEq, Repr

/-- `MEM_SIZE` (00_scope.md R7). -/
@[simp] abbrev Config.memSize : Nat := 4096

/-- `STACK_DEPTH` (00_scope.md R7, decision D3 of the spec). -/
@[simp] abbrev Config.stackDepth : Nat := 16

/-- `FONT_SMALL_BASE` (00_scope.md R7). -/
@[simp] abbrev Config.fontSmallBase : Nat := 0x050

/-- `FONT_BIG_BASE` (00_scope.md R7). -/
@[simp] abbrev Config.fontBigBase : Nat := 0x0A0

/-- The first address behind the fonts: 0x0A0 + 16*10 (00_scope.md R8). -/
@[simp] abbrev Config.fontEnd : Nat := 0x140

/-- `ROM_BASE` (00_scope.md R7). -/
@[simp] abbrev Config.romBase : Nat := 0x200

/-- `ROM_MAX` (00_scope.md R7). -/
@[simp] abbrev Config.romMax : Nat := 0x0E00

/-- `RESET_PC` (00_scope.md R7). -/
@[simp] abbrev Config.resetPc : Word := 0x200

/-- `FONT_SMALL`, OPEN (00_scope.md R7; 93_implementation_defined.md U11): a free value, 5 bytes a digit
(notes/assumptions/2.md). -/
opaque Config.fontSmall : Vector Byte 80

/-- `FONT_BIG`, OPEN with no default (00_scope.md R7; 93_implementation_defined.md U12): a free value, 10 bytes a
digit (notes/assumptions/2.md). -/
opaque Config.fontBig : Vector Byte 160

/-- The `rnd` of the k-th draw (10_state.md R42): a free value under no law (notes/assumptions/1.md). -/
opaque Config.rnd : Nat → Byte

end Sys2Proof
end

