-- ==== Sys2Proof/Syntax.lean ====
section
/-! DEFINITION. The instruction set: one constructor per row of spec/opcode_table.json, in the table's order
(30_encoding.md R100). Fields are those of R91, unsigned and as they stand in the word (R93). -/

namespace Sys2Proof

/-- The 43 instructions and UNKNOWN, the row of every other word. -/
inductive Instr where
  /-- 00E0 -/
  | cls
  /-- 00EE -/
  | ret
  /-- 00Cn, SCHIP only -/
  | scd (n : Nibble)
  /-- 00FB, SCHIP only -/
  | scr
  /-- 00FC, SCHIP only -/
  | scl
  /-- 00FD, SCHIP only -/
  | exit
  /-- 00FE, SCHIP only -/
  | low
  /-- 00FF, SCHIP only -/
  | high
  /-- 1nnn -/
  | jp (nnn : Addr12)
  /-- 2nnn -/
  | call (nnn : Addr12)
  /-- 3xkk -/
  | seImm (x : RegIdx) (kk : Byte)
  /-- 4xkk -/
  | sneImm (x : RegIdx) (kk : Byte)
  /-- 5xy0 -/
  | seReg (x y : RegIdx)
  /-- 6xkk -/
  | ldImm (x : RegIdx) (kk : Byte)
  /-- 7xkk -/
  | addImm (x : RegIdx) (kk : Byte)
  /-- 8xy0 -/
  | ldReg (x y : RegIdx)
  /-- 8xy1 -/
  | orReg (x y : RegIdx)
  /-- 8xy2 -/
  | andReg (x y : RegIdx)
  /-- 8xy3 -/
  | xorReg (x y : RegIdx)
  /-- 8xy4 -/
  | addReg (x y : RegIdx)
  /-- 8xy5 -/
  | sub (x y : RegIdx)
  /-- 8xy6 -/
  | shr (x y : RegIdx)
  /-- 8xy7 -/
  | subn (x y : RegIdx)
  /-- 8xyE -/
  | shl (x y : RegIdx)
  /-- 9xy0 -/
  | sneReg (x y : RegIdx)
  /-- Annn -/
  | ldI (nnn : Addr12)
  /-- Bnnn -/
  | jpV0 (nnn : Addr12)
  /-- Cxkk -/
  | rnd (x : RegIdx) (kk : Byte)
  /-- Dxyn -/
  | drw (x y : RegIdx) (n : Nibble)
  /-- Ex9E -/
  | skp (x : RegIdx)
  /-- ExA1 -/
  | sknp (x : RegIdx)
  /-- Fx07 -/
  | ldVxDt (x : RegIdx)
  /-- Fx0A -/
  | ldVxK (x : RegIdx)
  /-- Fx15 -/
  | ldDtVx (x : RegIdx)
  /-- Fx18 -/
  | ldStVx (x : RegIdx)
  /-- Fx1E -/
  | addI (x : RegIdx)
  /-- Fx29 -/
  | ldF (x : RegIdx)
  /-- Fx30 -/
  | ldHf (x : RegIdx)
  /-- Fx33 -/
  | ldB (x : RegIdx)
  /-- Fx55 -/
  | ldMemVx (x : RegIdx)
  /-- Fx65 -/
  | ldVxMem (x : RegIdx)
  /-- Fx75 -/
  | ldRVx (x : RegIdx)
  /-- Fx85 -/
  | ldVxR (x : RegIdx)
  /-- Any other word, kept whole (R134). -/
  | unknown (w : Word)
  deriving DecidableEq, Repr

end Sys2Proof
end

