-- ==== Sys2Proof/WellFormed.lean ====
section
/-! DEFINITION. Which instructions exist under which variant: the six patterns of family 0 that only SCHIP has
(30_encoding.md R98) and the words that are UNKNOWN, listed family by family as R101 lists them. The operand fields
need no check: their types admit exactly the values of R91. -/

namespace Sys2Proof

/-- The 21 words that are instructions only under SCHIP: 0x00C0..0x00CF and 0x00FB..0x00FF (R98, R101). -/
def schipOnlyWord (w : Word) : Bool :=
  (decide (0x00C0 ≤ w) && decide (w ≤ 0x00CF)) || (decide (0x00FB ≤ w) && decide (w ≤ 0x00FF))

/-- The UNKNOWN words under a variant, family by family (30_encoding.md R101). -/
def unknownWord (v : Variant) (w : Word) : Bool :=
  let fam := w.extractLsb' 12 4
  let kk := w.extractLsb' 0 8
  let n := w.extractLsb' 0 4
  if fam = 0x0 then
    w != 0x00E0 && w != 0x00EE && !(v == .schip && schipOnlyWord w)
  else if fam = 0x5 || fam = 0x9 then
    n != 0x0
  else if fam = 0x8 then
    [0x8#4, 0x9#4, 0xA#4, 0xB#4, 0xC#4, 0xD#4, 0xF#4].contains n
  else if fam = 0xE then
    !([0x9E#8, 0xA1#8].contains kk)
  else if fam = 0xF then
    !([0x07#8, 0x0A#8, 0x15#8, 0x18#8, 0x1E#8, 0x29#8, 0x30#8, 0x33#8, 0x55#8, 0x65#8, 0x75#8, 0x85#8].contains kk)
  else
    false

/-- An instruction is well formed under a variant when some word decodes to it there: an SCHIP-only instruction
needs SCHIP, an `unknown w` needs w to be UNKNOWN, every other instruction is well formed under both (R98). -/
def Instr.wellFormed (v : Variant) : Instr → Bool
  | .scd _ => v == .schip
  | .scr => v == .schip
  | .scl => v == .schip
  | .exit => v == .schip
  | .low => v == .schip
  | .high => v == .schip
  | .unknown w => unknownWord v w
  | .cls | .ret | .jp _ | .call _ | .seImm _ _ | .sneImm _ _ | .seReg _ _ | .ldImm _ _ | .addImm _ _ | .ldReg _ _
  | .orReg _ _ | .andReg _ _ | .xorReg _ _ | .addReg _ _ | .sub _ _ | .shr _ _ | .subn _ _ | .shl _ _ | .sneReg _ _
  | .ldI _ | .jpV0 _ | .rnd _ _ | .drw _ _ _ | .skp _ | .sknp _ | .ldVxDt _ | .ldVxK _ | .ldDtVx _ | .ldStVx _
  | .addI _ | .ldF _ | .ldHf _ | .ldB _ | .ldMemVx _ | .ldVxMem _ | .ldRVx _ | .ldVxR _ => true

end Sys2Proof
end

