-- ==== Sys2Proof/Decode.lean ====
section
/-! DEFINITION. The decoder: a total function from (word, variant) to an instruction (30_encoding.md R97), by exact
match of every fixed hexadecimal digit (R99), with the six variant-gated patterns of family 0 (R98); reading it from
bytes (20_memory.md R63); and the encoder, written from the same patterns (R100). -/

namespace Sys2Proof

/-- Bits 15:12, the family digit (30_encoding.md R91). -/
def nib3 (w : Word) : Nibble := w.extractLsb' 12 4

/-- Bits 11:8, the digit of field x (R91). -/
def nib2 (w : Word) : Nibble := w.extractLsb' 8 4

/-- Bits 7:4, the digit of field y (R91). -/
def nib1 (w : Word) : Nibble := w.extractLsb' 4 4

/-- Bits 3:0, the digit of field n (R91). -/
def nib0 (w : Word) : Nibble := w.extractLsb' 0 4

/-- The word of four hexadecimal digits, most significant first (00_scope.md R10). -/
def pack (a b c d : Nibble) : Word := a ++ b ++ c ++ d

/-- `kk` = `y ++ n` (R91). -/
def fieldKk (c d : Nibble) : Byte := c ++ d

/-- `nnn` = `x ++ kk` (R91). -/
def fieldNnn (b c d : Nibble) : Addr12 := b ++ c ++ d

/-- Family 0 (R100; the last six patterns only under SCHIP, R98). -/
def decodeFam0 (v : Variant) (b c d : Nibble) : Instr :=
  if b = 0x0 ∧ c = 0xE ∧ d = 0x0 then .cls
  else if b = 0x0 ∧ c = 0xE ∧ d = 0xE then .ret
  else if v = .schip ∧ b = 0x0 ∧ c = 0xC then .scd d
  else if v = .schip ∧ b = 0x0 ∧ c = 0xF ∧ d = 0xB then .scr
  else if v = .schip ∧ b = 0x0 ∧ c = 0xF ∧ d = 0xC then .scl
  else if v = .schip ∧ b = 0x0 ∧ c = 0xF ∧ d = 0xD then .exit
  else if v = .schip ∧ b = 0x0 ∧ c = 0xF ∧ d = 0xE then .low
  else if v = .schip ∧ b = 0x0 ∧ c = 0xF ∧ d = 0xF then .high
  else .unknown (pack 0x0 b c d)

/-- Family 5: only 5xy0 is an instruction (R100). -/
def decodeFam5 (b c d : Nibble) : Instr :=
  if d = 0x0 then .seReg b.toFin c.toFin else .unknown (pack 0x5 b c d)

/-- Family 8: 8xy0..8xy7 and 8xyE (R100). -/
def decodeFam8 (b c d : Nibble) : Instr :=
  if d = 0x0 then .ldReg b.toFin c.toFin
  else if d = 0x1 then .orReg b.toFin c.toFin
  else if d = 0x2 then .andReg b.toFin c.toFin
  else if d = 0x3 then .xorReg b.toFin c.toFin
  else if d = 0x4 then .addReg b.toFin c.toFin
  else if d = 0x5 then .sub b.toFin c.toFin
  else if d = 0x6 then .shr b.toFin c.toFin
  else if d = 0x7 then .subn b.toFin c.toFin
  else if d = 0xE then .shl b.toFin c.toFin
  else .unknown (pack 0x8 b c d)

/-- Family 9: only 9xy0 is an instruction (R100). -/
def decodeFam9 (b c d : Nibble) : Instr :=
  if d = 0x0 then .sneReg b.toFin c.toFin else .unknown (pack 0x9 b c d)

/-- Family E: Ex9E and ExA1 (R100). -/
def decodeFamE (b c d : Nibble) : Instr :=
  if c = 0x9 ∧ d = 0xE then .skp b.toFin
  else if c = 0xA ∧ d = 0x1 then .sknp b.toFin
  else .unknown (pack 0xE b c d)

/-- Family F: the twelve low bytes of R100. -/
def decodeFamF (b c d : Nibble) : Instr :=
  if c = 0x0 ∧ d = 0x7 then .ldVxDt b.toFin
  else if c = 0x0 ∧ d = 0xA then .ldVxK b.toFin
  else if c = 0x1 ∧ d = 0x5 then .ldDtVx b.toFin
  else if c = 0x1 ∧ d = 0x8 then .ldStVx b.toFin
  else if c = 0x1 ∧ d = 0xE then .addI b.toFin
  else if c = 0x2 ∧ d = 0x9 then .ldF b.toFin
  else if c = 0x3 ∧ d = 0x0 then .ldHf b.toFin
  else if c = 0x3 ∧ d = 0x3 then .ldB b.toFin
  else if c = 0x5 ∧ d = 0x5 then .ldMemVx b.toFin
  else if c = 0x6 ∧ d = 0x5 then .ldVxMem b.toFin
  else if c = 0x7 ∧ d = 0x5 then .ldRVx b.toFin
  else if c = 0x8 ∧ d = 0x5 then .ldVxR b.toFin
  else .unknown (pack 0xF b c d)

/-- "dispatch on the high nibble into 16 instruction families" (R96): the word of the digits a b c d. -/
def decodeDigits (v : Variant) (a b c d : Nibble) : Instr :=
  if a = 0x0 then decodeFam0 v b c d
  else if a = 0x1 then .jp (fieldNnn b c d)
  else if a = 0x2 then .call (fieldNnn b c d)
  else if a = 0x3 then .seImm b.toFin (fieldKk c d)
  else if a = 0x4 then .sneImm b.toFin (fieldKk c d)
  else if a = 0x5 then decodeFam5 b c d
  else if a = 0x6 then .ldImm b.toFin (fieldKk c d)
  else if a = 0x7 then .addImm b.toFin (fieldKk c d)
  else if a = 0x8 then decodeFam8 b c d
  else if a = 0x9 then decodeFam9 b c d
  else if a = 0xA then .ldI (fieldNnn b c d)
  else if a = 0xB then .jpV0 (fieldNnn b c d)
  else if a = 0xC then .rnd b.toFin (fieldKk c d)
  else if a = 0xD then .drw b.toFin c.toFin d
  else if a = 0xE then decodeFamE b c d
  else decodeFamF b c d

/-- Decode is total from (word, variant) and never fails (30_encoding.md R97). -/
def decode (v : Variant) (w : Word) : Instr := decodeDigits v (nib3 w) (nib2 w) (nib1 w) (nib0 w)

/-- Why bytes hold no instruction: there are fewer than two (R90). Raised by `decodeBytes`; step always has two bytes
(20_memory.md R66), so no run meets it (safe). -/
inductive DecodeReject where
  | truncated
  deriving DecidableEq, Repr

/-- The instruction at the head of a byte sequence, big-endian: the byte at the lower address is the high byte
(20_memory.md R63); with the bytes behind it. -/
def decodeBytes (v : Variant) : List Byte → Except DecodeReject (Instr × List Byte)
  | hi :: lo :: rest => .ok (decode v (hi ++ lo), rest)
  | _ => .error .truncated

/-- The digit of a register field. -/
def digitOf (x : RegIdx) : Nibble := BitVec.ofFin x

/-- The word of a format A instruction: fam nnn (R92). -/
def packA (a : Nibble) (nnn : Addr12) : Word := a ++ nnn

/-- The word of a format XK instruction: fam x kk (R92). -/
def packXK (a : Nibble) (x : RegIdx) (kk : Byte) : Word := a ++ digitOf x ++ kk

/-- The word of a format XY or XYN instruction: fam x y and a last digit (R92). -/
def packXY (a : Nibble) (x y : RegIdx) (d : Nibble) : Word := pack a (digitOf x) (digitOf y) d

/-- The word of a format XF instruction: fam x and a low byte (R92). -/
def packXF (a : Nibble) (x : RegIdx) (fn : Byte) : Word := packXK a x fn

/-- The encoder, from the patterns of R100. -/
def encode : Instr → Word
  | .cls => 0x00E0
  | .ret => 0x00EE
  | .scd n => pack 0x0 0x0 0xC n
  | .scr => 0x00FB
  | .scl => 0x00FC
  | .exit => 0x00FD
  | .low => 0x00FE
  | .high => 0x00FF
  | .jp nnn => packA 0x1 nnn
  | .call nnn => packA 0x2 nnn
  | .seImm x kk => packXK 0x3 x kk
  | .sneImm x kk => packXK 0x4 x kk
  | .seReg x y => packXY 0x5 x y 0x0
  | .ldImm x kk => packXK 0x6 x kk
  | .addImm x kk => packXK 0x7 x kk
  | .ldReg x y => packXY 0x8 x y 0x0
  | .orReg x y => packXY 0x8 x y 0x1
  | .andReg x y => packXY 0x8 x y 0x2
  | .xorReg x y => packXY 0x8 x y 0x3
  | .addReg x y => packXY 0x8 x y 0x4
  | .sub x y => packXY 0x8 x y 0x5
  | .shr x y => packXY 0x8 x y 0x6
  | .subn x y => packXY 0x8 x y 0x7
  | .shl x y => packXY 0x8 x y 0xE
  | .sneReg x y => packXY 0x9 x y 0x0
  | .ldI nnn => packA 0xA nnn
  | .jpV0 nnn => packA 0xB nnn
  | .rnd x kk => packXK 0xC x kk
  | .drw x y n => packXY 0xD x y n
  | .skp x => packXF 0xE x 0x9E
  | .sknp x => packXF 0xE x 0xA1
  | .ldVxDt x => packXF 0xF x 0x07
  | .ldVxK x => packXF 0xF x 0x0A
  | .ldDtVx x => packXF 0xF x 0x15
  | .ldStVx x => packXF 0xF x 0x18
  | .addI x => packXF 0xF x 0x1E
  | .ldF x => packXF 0xF x 0x29
  | .ldHf x => packXF 0xF x 0x30
  | .ldB x => packXF 0xF x 0x33
  | .ldMemVx x => packXF 0xF x 0x55
  | .ldVxMem x => packXF 0xF x 0x65
  | .ldRVx x => packXF 0xF x 0x75
  | .ldVxR x => packXF 0xF x 0x85
  | .unknown w => w

/-- One row of the opcode map: a word matches it when `w & mask = bits`; an SCHIP-only row matches under SCHIP alone
(30_encoding.md R100). -/
structure OpcodePattern where
  mask : Word
  bits : Word
  schipOnly : Bool
  deriving DecidableEq, Repr

/-- The row of R100 each instruction stands in; UNKNOWN has no fixed digit. -/
def opcodePattern : Instr → OpcodePattern
  | .cls => ⟨0xFFFF, 0x00E0, false⟩
  | .ret => ⟨0xFFFF, 0x00EE, false⟩
  | .scd _ => ⟨0xFFF0, 0x00C0, true⟩
  | .scr => ⟨0xFFFF, 0x00FB, true⟩
  | .scl => ⟨0xFFFF, 0x00FC, true⟩
  | .exit => ⟨0xFFFF, 0x00FD, true⟩
  | .low => ⟨0xFFFF, 0x00FE, true⟩
  | .high => ⟨0xFFFF, 0x00FF, true⟩
  | .jp _ => ⟨0xF000, 0x1000, false⟩
  | .call _ => ⟨0xF000, 0x2000, false⟩
  | .seImm _ _ => ⟨0xF000, 0x3000, false⟩
  | .sneImm _ _ => ⟨0xF000, 0x4000, false⟩
  | .seReg _ _ => ⟨0xF00F, 0x5000, false⟩
  | .ldImm _ _ => ⟨0xF000, 0x6000, false⟩
  | .addImm _ _ => ⟨0xF000, 0x7000, false⟩
  | .ldReg _ _ => ⟨0xF00F, 0x8000, false⟩
  | .orReg _ _ => ⟨0xF00F, 0x8001, false⟩
  | .andReg _ _ => ⟨0xF00F, 0x8002, false⟩
  | .xorReg _ _ => ⟨0xF00F, 0x8003, false⟩
  | .addReg _ _ => ⟨0xF00F, 0x8004, false⟩
  | .sub _ _ => ⟨0xF00F, 0x8005, false⟩
  | .shr _ _ => ⟨0xF00F, 0x8006, false⟩
  | .subn _ _ => ⟨0xF00F, 0x8007, false⟩
  | .shl _ _ => ⟨0xF00F, 0x800E, false⟩
  | .sneReg _ _ => ⟨0xF00F, 0x9000, false⟩
  | .ldI _ => ⟨0xF000, 0xA000, false⟩
  | .jpV0 _ => ⟨0xF000, 0xB000, false⟩
  | .rnd _ _ => ⟨0xF000, 0xC000, false⟩
  | .drw _ _ _ => ⟨0xF000, 0xD000, false⟩
  | .skp _ => ⟨0xF0FF, 0xE09E, false⟩
  | .sknp _ => ⟨0xF0FF, 0xE0A1, false⟩
  | .ldVxDt _ => ⟨0xF0FF, 0xF007, false⟩
  | .ldVxK _ => ⟨0xF0FF, 0xF00A, false⟩
  | .ldDtVx _ => ⟨0xF0FF, 0xF015, false⟩
  | .ldStVx _ => ⟨0xF0FF, 0xF018, false⟩
  | .addI _ => ⟨0xF0FF, 0xF01E, false⟩
  | .ldF _ => ⟨0xF0FF, 0xF029, false⟩
  | .ldHf _ => ⟨0xF0FF, 0xF030, false⟩
  | .ldB _ => ⟨0xF0FF, 0xF033, false⟩
  | .ldMemVx _ => ⟨0xF0FF, 0xF055, false⟩
  | .ldVxMem _ => ⟨0xF0FF, 0xF065, false⟩
  | .ldRVx _ => ⟨0xF0FF, 0xF075, false⟩
  | .ldVxR _ => ⟨0xF0FF, 0xF085, false⟩
  | .unknown _ => ⟨0x0000, 0x0000, false⟩

/-- The 43 rows of R100, in its order. -/
def opcodeMap : List OpcodePattern :=
  [.cls, .ret, .scd 0, .scr, .scl, .exit, .low, .high, .jp 0, .call 0, .seImm 0 0, .sneImm 0 0, .seReg 0 0].map opcodePattern
  ++ [.ldImm 0 0, .addImm 0 0, .ldReg 0 0, .orReg 0 0, .andReg 0 0, .xorReg 0 0, .addReg 0 0, .sub 0 0].map opcodePattern
  ++ [.shr 0 0, .subn 0 0, .shl 0 0, .sneReg 0 0, .ldI 0, .jpV0 0, .rnd 0 0, .drw 0 0 0].map opcodePattern
  ++ [.skp 0, .sknp 0, .ldVxDt 0, .ldVxK 0, .ldDtVx 0, .ldStVx 0, .addI 0, .ldF 0].map opcodePattern
  ++ [.ldHf 0, .ldB 0, .ldMemVx 0, .ldVxMem 0, .ldRVx 0, .ldVxR 0].map opcodePattern

/-- A word matches a row of the opcode map under a variant (R98, R100). -/
def OpcodePattern.matchesWord (p : OpcodePattern) (v : Variant) (w : Word) : Bool :=
  (!p.schipOnly || v == .schip) && (w &&& p.mask == p.bits)

/-- The two bytes of an instruction as memory holds them, the high byte first (20_memory.md R63). -/
def wordBytes (w : Word) : List Byte := [w.extractLsb' 8 8, w.extractLsb' 0 8]

/-- The instruction the decoder reads from the word w of an opcode-table row of nbits bits (bit 0 is the least
significant bit of the 16-bit word). The table holds the SCHIP-only rows too, so it is read under SCHIP, where all 43
patterns decode (R98, R102). DESIGN CHOICE, safe (notes/assumptions/12.md). -/
def decodeTableWord (nbits w : Nat) : Option Instr :=
  if nbits ≤ 16 ∧ w < 2 ^ nbits then
    match decodeBytes .schip (wordBytes (BitVec.ofNat 16 w)) with
    | .ok (i, _) => some i
    | .error _ => none
  else none

end Sys2Proof
end

