-- ==== Sys2Proof/Machine/State.lean ====
section
/-! DEFINITION. The state of the machine: every item of 10_state.md R20 to R41, as plain data, and its value right
after power-on and reset (R46; 70_reset_and_hazards.md R330, R331). -/

namespace Sys2Proof.Machine

/-- Main memory (10_state.md R27): (address, byte) cells, addresses strictly rising, none equal to what an unlisted
address reads as (`Memory.wf`, `powerOnByte` in Machine/Ops.lean). -/
abbrev Memory := List Host.Cell

/-- A plane of h rows by w columns of one-bit pixels (R28, R29): row r is the r-th entry, and bit c of a row is the
pixel in column c. DESIGN CHOICE, safe (notes/assumptions/7.md). -/
abbrev Plane (w h : Nat) := Vector (BitVec w) h

/-- The fault cause (R37; 60_exceptions.md R281). The codes 5, 6, 7 do not occur and have no constructor.
DEDUCED, safe (notes/assumptions/13.md). -/
inductive FaultCause where
  | none
  | fetchFault
  | memFault
  | stackOverflow
  | stackUnderflow
  deriving DecidableEq, Repr

/-- No step of this machine stops with a fault: every fault of the spec is the NEXT state that 60_exceptions.md R284
describes (FAULTED), so this type has no constructor and nobody raises one. DESIGN CHOICE, safe
(notes/assumptions/4.md). -/
inductive Fault
  deriving DecidableEq, Repr

/-- Why a step has no meaning. -/
inductive Refusal where
  /-- An arm of exec whose instruction has no meaning yet. No arm of exec raises it: every instruction of the opcode
  table has its meaning. It would be safe (nothing is proved of such a step). -/
  | notModelled (mnemonic : String)
  deriving DecidableEq, Repr

/-- The architectural state. -/
structure State where
  /-- V[0..15] (R20) -/
  v : Vector Byte 16
  /-- PC (R22) -/
  pc : Word
  /-- I (R24) -/
  i : Word
  /-- stack[0..15] (R25) -/
  stack : Vector Word 16
  /-- the number of valid stack entries, 0..16 (R25) -/
  sp : Fin 17
  /-- the flag registers R[0..15] (R26) -/
  r : Vector Byte 16
  /-- mem[0..4095] (R27) -/
  mem : Memory
  /-- fb_lo, 32 rows by 64 columns (R28) -/
  fbLo : Plane 64 32
  /-- fb_hi, 64 rows by 128 columns (R29) -/
  fbHi : Plane 128 64
  /-- changed (R30) -/
  changed : Bool
  /-- key[0..15] (R31) -/
  key : Vector Bool 16
  /-- DT (R32) -/
  dt : Byte
  /-- ST (R33) -/
  st : Byte
  /-- scroll_x, two's complement (R34) -/
  scrollX : BitVec 16
  /-- scroll_y, two's complement (R34) -/
  scrollY : BitVec 16
  /-- high_res (R35) -/
  highRes : Bool
  /-- running (R36) -/
  running : Bool
  /-- fault_cause (R37) -/
  faultCause : FaultCause
  /-- wait_key (R38) -/
  waitKey : Bool
  /-- wait_index (R38) -/
  waitIndex : Fin 16
  /-- waiting (R39) -/
  waiting : Bool
  /-- the variant input as the host last set it (R41) -/
  variant : Variant
  /-- the model's own field: how many random bytes have been drawn (R42; notes/assumptions/1.md) -/
  draws : Nat
  deriving DecidableEq, Repr

/-- The machine right after power-on and reset (R46, R330, R331). The variant is the host's to select. DESIGN CHOICE,
unsafe: CHIP8 here is the model's (notes/assumptions/3.md), and so is the 0 of `draws` (notes/assumptions/1.md). -/
def State.reset : State where
  v := Vector.replicate 16 0
  pc := Config.resetPc
  i := 0
  stack := Vector.replicate 16 0
  sp := 0
  r := Vector.replicate 16 0
  mem := []
  fbLo := Vector.replicate 32 0
  fbHi := Vector.replicate 64 0
  changed := true
  key := Vector.replicate 16 false
  dt := 0
  st := 0
  scrollX := 0
  scrollY := 0
  highRes := false
  running := true
  faultCause := .none
  waitKey := false
  waitIndex := 0
  waiting := false
  variant := .chip8
  draws := 0

/-- What a step and a meaning answer. -/
abbrev Out := Host.Outcome State Fault Refusal

end Sys2Proof.Machine
end

