-- ==== Sys2Proof/Machine/Ops.lean ====
section
/-! DEFINITION. The named operations over memory, registers, the stack, the planes and the keypad; taking a fault
(60_exceptions.md R284) and, beside it, the reset that is the only way back (R285; 70_reset_and_hazards.md R331). -/

namespace Sys2Proof.Machine

/-! ## Main memory (20_memory.md) -/

/-- What an unlisted address reads as: its content at power-on (R330, R62): the small font at 0x050..0x09F, the big
font at 0x0A0..0x13F, 0 everywhere else. DESIGN CHOICE, safe: the fonts are free values (notes/assumptions/2.md). -/
def powerOnByte (a : Nat) : Byte :=
  if a < Config.fontSmallBase then 0
  else if a < Config.fontBigBase then Config.fontSmall[a - Config.fontSmallBase]?.getD 0
  else if a < Config.fontEnd then Config.fontBig[a - Config.fontBigBase]?.getD 0
  else 0

/-- The byte at an address (00_scope.md R13). Every instruction tests its addresses first (`accessOk`, `fetchOk`), so
no address above 4095 is ever read. DEDUCED, safe (notes/assumptions/9.md). -/
def Memory.read : Memory → Nat → Byte
  | [], a => powerOnByte a
  | (k, b) :: rest, a => if k = a then b else Memory.read rest a

/-- Put a byte at an address into a memory in canonical form; writing what an unlisted address reads as removes the
cell. -/
def Memory.insert : Memory → Nat → Byte → Memory
  | [], a, b => if b = powerOnByte a then [] else [(a, b)]
  | (k, c) :: rest, a, b =>
    if a < k then (if b = powerOnByte a then (k, c) :: rest else (a, b) :: (k, c) :: rest)
    else if a = k then (if b = powerOnByte a then rest else (a, b) :: rest)
    else (k, c) :: Memory.insert rest a b

/-- `mem[addr] <- v` for an address 0..4095 (R13); there is no byte above 4095, and none is ever written. -/
def Memory.write (m : Memory) (a : Nat) (b : Byte) : Memory :=
  if a < Config.memSize then Memory.insert m a b else m

/-- Bytes written at ascending addresses from a. -/
def Memory.writeBytes : Memory → Nat → List Byte → Memory
  | m, _, [] => m
  | m, a, b :: bs => Memory.writeBytes (Memory.write m a b) (a + 1) bs

/-- The cells above `lo` are in canonical form: addresses strictly rising from `lo` and below 4096, no cell equal to
the power-on content of its address. -/
def Memory.wfFrom : Nat → Memory → Bool
  | _, [] => true
  | lo, (k, b) :: rest =>
    decide (lo ≤ k) && decide (k < Config.memSize) && decide (b ≠ powerOnByte k) && Memory.wfFrom (k + 1) rest

/-- The canonical form of memory. -/
def Memory.wf (m : Memory) : Bool := Memory.wfFrom 0 m

/-- mem[0x200..0xFFF] <- 0, the bytes below untouched (R331): the power-on content above 0x1FF is 0. -/
def Memory.clearRom (m : Memory) : Memory := m.filter (fun cell => decide (cell.1 < Config.romBase))

/-- The data bound (R70): an access of `len` bytes from I is in range when it is empty or I + len - 1 <= 4095, in
unbounded naturals. -/
def accessOk (i : Word) (len : Nat) : Bool := decide (len = 0 ∨ i.toNat + len - 1 ≤ 4095)

/-- The fetch bound (R66): pc0 + 1 <= 4095. -/
def fetchOk (pc : Word) : Bool := decide (pc.toNat + 1 ≤ 4095)

/-- The instruction word `mem[PC] ++ mem[PC+1]`, big-endian (R63), from the memory as it is now (R75). -/
def fetchWord (s : State) : Word := s.mem.read s.pc.toNat ++ s.mem.read (s.pc.toNat + 1)

/-! ## Registers (10_state.md) -/

/-- `PC <- w` (R22). -/
def State.setPc (s : State) (w : Word) : State := { s with pc := w }

/-- The advance of PC by 2 at the fetch, modulo 2^16 (R23; 30_encoding.md R96). -/
def State.advance (s : State) : State := s.setPc (s.pc + 2)

/-- The conditional skip: 2 more on the already advanced PC (41_jump_call_skip.md R139). -/
def State.skipIf (s : State) (c : Bool) : State := if c then s.advance.advance else s.advance

/-- `V[x]` (00_scope.md R12). -/
def State.reg (s : State) (x : RegIdx) : Byte := s.v[x.val]

/-- `V[x] <- b` (00_scope.md R12). -/
def State.setReg (s : State) (x : RegIdx) (b : Byte) : State := { s with v := s.v.set x.val b }

/-- All of V at once, for the block transfers. -/
def State.setV (s : State) (v : Vector Byte 16) : State := { s with v := v }

/-- `I <- w` (R24). -/
def State.setI (s : State) (w : Word) : State := { s with i := w }

/-- Main memory replaced by the result of a store. -/
def State.setMem (s : State) (m : Memory) : State := { s with mem := m }

/-- `dst[k] <- f k` for k = 0 .. count-1, in ascending order (46_family_F.md R266, R268, R270). -/
def copyPrefix (f : Nat → Byte) : Nat → Vector Byte 16 → Vector Byte 16
  | 0, dst => dst
  | k + 1, dst => (copyPrefix f k dst).setIfInBounds k (f k)

/-! ## stack_lifo (10_state.md R25) -/

/-- Push a return address; none when sixteen entries are already valid. -/
def State.push (s : State) (w : Word) : Option State :=
  if h : s.sp.val < Config.stackDepth then
    some { s with stack := s.stack.set s.sp.val w, sp := ⟨s.sp.val + 1, Nat.succ_lt_succ h⟩ }
  else none

/-- Pop the top entry; none when no entry is valid. The entry keeps its value in the store. -/
def State.pop (s : State) : Option (Word × State) :=
  if 0 < s.sp.val then
    some (s.stack[s.sp.val - 1]'(by omega), { s with sp := ⟨s.sp.val - 1, by omega⟩ })
  else none

/-! ## framebuffer_2plane (10_state.md R28 to R30) -/

/-- Row r of a plane; a row outside the plane has no lit pixel. -/
def Plane.row {w h : Nat} (p : Plane w h) (r : Nat) : BitVec w := p[r]?.getD 0

/-- The pixel at row r, column c; a position outside the plane is unlit (00_scope.md R16). -/
def Plane.pixel {w h : Nat} (p : Plane w h) (r c : Nat) : Bool := (Plane.row p r).getLsbD c

/-- The pixel at row r, column c toggled; a position outside the plane changes nothing. -/
def Plane.toggle {w h : Nat} (p : Plane w h) (r c : Nat) : Plane w h :=
  p.setIfInBounds r (Plane.row p r ^^^ BitVec.twoPow w c)

/-- A plane with every pixel 0. -/
def Plane.clear (w h : Nat) : Plane w h := Vector.replicate h 0

/-! ## Keypad (10_state.md R31) -/

/-- `key[k] = 1`: the key is pressed. -/
def State.keyDown (s : State) (k : RegIdx) : Bool := s.key[k.val]

/-- The key indices in ascending order, the scan order of Fx0A (00_scope.md R7 `KEY_SCAN_ORDER`, decision D20). -/
def keyScanOrder : List RegIdx := [0, 1, 2, 3, 4, 5, 6, 7, 8, 9, 10, 11, 12, 13, 14, 15]

/-- The smallest index of a pressed key, if any key is pressed (46_family_F.md R246). -/
def State.firstKeyDown (s : State) : Option RegIdx := keyScanOrder.find? (fun k => s.keyDown k)

/-! ## Faults (60_exceptions.md) -/

/-- The code of a fault cause in the 3-bit `fault_cause` (R281, R37). -/
def faultCode : FaultCause → BitVec 3
  | .none => 0
  | .fetchFault => 1
  | .memFault => 2
  | .stackOverflow => 3
  | .stackUnderflow => 4

/-- Fault entry (R284): the state before the step but for `running <- 0` and `fault_cause <- code`. PC is still pc0.
There is no vector and no handler. -/
def State.raise (s : State) (c : FaultCause) : State := { s with running := false, faultCause := c }

/-- Reset (70_reset_and_hazards.md R331), the only way out of FAULTED and HALTED (R285): everything back to its reset
value but the memory below 0x200 and the variant, which stay; `draws` is no state of the core and stays too
(DESIGN CHOICE, notes/assumptions/1.md). -/
def State.resetFrom (s : State) : State :=
  { State.reset with mem := s.mem.clearRom, variant := s.variant, draws := s.draws }

end Sys2Proof.Machine
end

