-- ==== Sys2Proof/Machine/Flags.lean ====
section
/-! DEFINITION. VF as a flag (10_state.md R21): every flag computation of the table of R21, from the unreduced
integers (42_load_alu.md R175), and the write-back order, result first and flag last (R160). -/

namespace Sys2Proof.Machine

/-- A flag as the byte VF holds: always 0 or 1 (R21). -/
def flagByte (b : Bool) : Byte := if b then 1 else 0

/-- `VF <- flag`. -/
def State.setVF (s : State) (b : Bool) : State := s.setReg vfIdx (flagByte b)

/-- The result to Vx and then the flag to VF, so that with x = 15 the flag stays (R160). -/
def State.setRegFlag (s : State) (x : RegIdx) (res : Byte) (flag : Bool) : State := (s.setReg x res).setVF flag

/-- 8xy4: the integer sum exceeds 255 (R169). -/
def carryFlag (a b : Byte) : Bool := decide (a.toNat + b.toNat > 255)

/-- 8xy5, 8xy7: the pre-op difference a - b is non-negative (R170, R172). -/
def noBorrowFlag (a b : Byte) : Bool := decide (a.toNat ≥ b.toNat)

/-- 8xy6: the bit shifted out, bit 0 (R171). -/
def shiftedOutRight (a : Byte) : Bool := a.getLsbD 0

/-- 8xyE: the bit shifted out, bit 7 (R173). -/
def shiftedOutLeft (a : Byte) : Bool := a.getLsbD 7

/-- Fx1E: the unreduced sum I + Vx exceeds 255 (46_family_F.md R256, decision D32 of the spec). -/
def indexFlag (i : Word) (b : Byte) : Bool := decide (i.toNat + b.toNat > 255)

/-- 8xy1, 8xy2, 8xy3: under CHIP8 VF is cleared after the result is written, under SCHIP it is left (R166). -/
def State.clearVFIfChip8 (s : State) : State :=
  match s.variant with
  | .chip8 => s.setVF false
  | .schip => s

end Sys2Proof.Machine
end

