-- ==== Sys2Proof/Machine/Operands.lean ====
section
/-! DEFINITION. The operand forms: immediates widened without sign (30_encoding.md R93), the operand a variant
selects, the digit and the key that Vx names, the BCD digits of a byte, and the register block of V0..Vx. -/

namespace Sys2Proof.Machine

/-- nnn as an address: zero-extended, 0..4095 (20_memory.md R69). -/
def addrOf (nnn : Addr12) : Word := nnn.setWidth 16

/-- A byte zero-extended to 16 bits. -/
def wordOf (b : Byte) : Word := b.setWidth 16

/-- An index 0..15 zero-extended to 8 bits (46_family_F.md R246). -/
def byteOfIdx (k : Fin 16) : Byte := BitVec.ofNat 8 k.val

/-- The source of 8xy6 and 8xyE: Vy under CHIP8, Vx under SCHIP (42_load_alu.md R171, R173). -/
def shiftSource (s : State) (x y : RegIdx) : Byte :=
  match s.variant with
  | .chip8 => s.reg y
  | .schip => s.reg x

/-- The register Bnnn adds: V0 under CHIP8, Vx with x = nnn[11:8] under SCHIP (43_index_jump_random.md R192). -/
def jumpOffset (s : State) (nnn : Addr12) : Byte :=
  match s.variant with
  | .chip8 => s.reg 0
  | .schip => s.reg (nnn.extractLsb' 8 4).toFin

/-- `Vx & 0xF` as an index: the key Vx names (45_keys.md R232), the digit of Fx29 and Fx30 (46_family_F.md R258). -/
def lowNibble (b : Byte) : Fin 16 := (b.extractLsb' 0 4).toFin

/-- The address of small digit d: 0x050 + 5*d (20_memory.md R72). -/
def smallDigitAddr (d : Fin 16) : Word := BitVec.ofNat 16 (Config.fontSmallBase + 5 * d.val)

/-- The address of big digit d: 0x0A0 + 10*d (20_memory.md R72). -/
def bigDigitAddr (d : Fin 16) : Word := BitVec.ofNat 16 (Config.fontBigBase + 10 * d.val)

/-- bcd_encode_unit: the hundreds, tens and units of a byte, one digit a byte, in memory order (46_family_F.md R262,
R263). -/
def bcd (b : Byte) : List Byte :=
  [BitVec.ofNat 8 (b.toNat / 100), BitVec.ofNat 8 (b.toNat / 10 % 10), BitVec.ofNat 8 (b.toNat % 10)]

/-- V0..Vx in ascending order (46_family_F.md R264). -/
def regBlock (s : State) (x : RegIdx) : List Byte := s.v.toList.take (x.val + 1)

/-- I after Fx55 and Fx65: I + x + 1 modulo 2^16 under CHIP8, unchanged under SCHIP (R264, R266). -/
def indexAfterBlock (s : State) (x : RegIdx) : Word :=
  match s.variant with
  | .chip8 => s.i + BitVec.ofNat 16 (x.val + 1)
  | .schip => s.i

end Sys2Proof.Machine
end

