-- ==== Sys2Proof/Machine/Alu.lean ====
section
/-! DEFINITION. Families 6, 7, 8: load immediate, add immediate and the ALU (42_load_alu.md). Sources are read from
the state before the instruction, the result is written first and the flag last (R160). -/

namespace Sys2Proof.Machine

/-- 6xkk (R162). -/
def execLdImm (x : RegIdx) (kk : Byte) (s : State) : Out := .next (s.advance.setReg x kk)

/-- 7xkk (R163): modulo 256, VF not written. -/
def execAddImm (x : RegIdx) (kk : Byte) (s : State) : Out := .next (s.advance.setReg x (s.reg x + kk))

/-- 8xy0 (R165). -/
def execLdReg (x y : RegIdx) (s : State) : Out := .next (s.advance.setReg x (s.reg y))

/-- 8xy1 (R166). -/
def execOrReg (x y : RegIdx) (s : State) : Out := .next (s.advance.setReg x (s.reg x ||| s.reg y)).clearVFIfChip8

/-- 8xy2 (R167). -/
def execAndReg (x y : RegIdx) (s : State) : Out := .next (s.advance.setReg x (s.reg x &&& s.reg y)).clearVFIfChip8

/-- 8xy3 (R168). -/
def execXorReg (x y : RegIdx) (s : State) : Out := .next (s.advance.setReg x (s.reg x ^^^ s.reg y)).clearVFIfChip8

/-- 8xy4 (R169). -/
def execAddReg (x y : RegIdx) (s : State) : Out :=
  .next (s.advance.setRegFlag x (s.reg x + s.reg y) (carryFlag (s.reg x) (s.reg y)))

/-- 8xy5 (R170). -/
def execSub (x y : RegIdx) (s : State) : Out :=
  .next (s.advance.setRegFlag x (s.reg x - s.reg y) (noBorrowFlag (s.reg x) (s.reg y)))

/-- 8xy6 (R171): a logical shift by one. -/
def execShr (x y : RegIdx) (s : State) : Out :=
  .next (s.advance.setRegFlag x (shiftSource s x y >>> 1) (shiftedOutRight (shiftSource s x y)))

/-- 8xy7 (R172). -/
def execSubn (x y : RegIdx) (s : State) : Out :=
  .next (s.advance.setRegFlag x (s.reg y - s.reg x) (noBorrowFlag (s.reg y) (s.reg x)))

/-- 8xyE (R173). -/
def execShl (x y : RegIdx) (s : State) : Out :=
  .next (s.advance.setRegFlag x (shiftSource s x y <<< 1) (shiftedOutLeft (shiftSource s x y)))

end Sys2Proof.Machine
end

