-- ==== Sys2Proof/Machine/Control.lean ====
section
/-! DEFINITION. Family 0 and the UNKNOWN word (40_family0_control.md). A meaning starts from the state the step found
(PC = pc0) and advances PC itself (R120; 30_encoding.md R96), so that a fault keeps PC = pc0 (60_exceptions.md R284).
The six SCHIP-only meanings are reached only under SCHIP: the decoder gates them (30_encoding.md R98).
DEDUCED, safe (notes/assumptions/10.md). -/

namespace Sys2Proof.Machine

/-- 00E0 (R121): both planes cleared whatever the variant and the resolution, changed set always. -/
def execCls (s : State) : Out :=
  .next { s.advance with fbLo := Plane.clear 64 32, fbHi := Plane.clear 128 64, changed := true }

/-- 00EE (R122). -/
def execRet (s : State) : Out :=
  match s.pop with
  | some (w, t) => .next (t.setPc w)
  | none => .next (s.raise .stackUnderflow)

/-- 00Cn (R126): the 16-bit sum wraps as `wrap_16` does (00_scope.md R14). -/
def execScd (n : Nibble) (s : State) : Out :=
  .next { s.advance with scrollY := s.scrollY + n.setWidth 16 }

/-- 00FB (R127). -/
def execScr (s : State) : Out := .next { s.advance with scrollX := s.scrollX + 4 }

/-- 00FC (R128). -/
def execScl (s : State) : Out := .next { s.advance with scrollX := s.scrollX - 4 }

/-- 00FD (R130): HALTED, with PC advanced and no fault cause. -/
def execExit (s : State) : Out := .next { s.advance with running := false }

/-- 00FE (R131). -/
def execLow (s : State) : Out := .next { s.advance with highRes := false }

/-- 00FF (R132). -/
def execHigh (s : State) : Out := .next { s.advance with highRes := true }

/-- Every other word (R134): PC + 2 and nothing else, whatever the bits are. -/
def execUnknown (_w : Word) (s : State) : Out := .next s.advance

end Sys2Proof.Machine
end

