-- ==== Sys2Proof/Machine/Draw.lean ====
section
/-! DEFINITION. Family D: draw a sprite (44_draw.md). The instruction lists, in the order of R203 and R204 (top row
first, leftmost bit first), the pixel each set sprite bit lands on, and XORs the pixels of that list in turn. -/

namespace Sys2Proof.Machine

/-- The geometry of a draw (R201): the plane (true: fb_hi), the row count, the bytes per row. -/
structure Geometry where
  hi : Bool
  rows : Nat
  bpr : Nat
  deriving DecidableEq, Repr

/-- The table of R201. -/
def geometry (v : Variant) (highRes : Bool) (n : Nibble) : Geometry :=
  match v, highRes with
  | .chip8, _ => ⟨false, n.toNat, 1⟩
  | .schip, false => ⟨false, n.toNat, 1⟩
  | .schip, true => if n = 0 then ⟨true, 16, 2⟩ else ⟨true, n.toNat, 1⟩

/-- W of R201. -/
def planeWidth (hi : Bool) : Nat := if hi then 128 else 64

/-- H of R201. -/
def planeHeight (hi : Bool) : Nat := if hi then 64 else 32

/-- `sbit(r, c)` of R202: bit 7 of a byte is the lowest-numbered of its eight columns. -/
def spriteBit (m : Memory) (i bpr r c : Nat) : Bool := (m.read (i + r * bpr + c / 8)).getLsbD (7 - c % 8)

/-- R203: the column stops at 63 and the row at 31. The answer is (row, column). -/
def clampPlace (x0 y0 r c : Nat) : Option (Nat × Nat) := some (min (y0 + r) 31, min (x0 + c) 63)

/-- R204: a position outside the plane is dropped. The answer is (row, column). -/
def clipPlace (w h : Nat) (x0 y0 : Int) (r c : Nat) : Option (Nat × Nat) :=
  if 0 ≤ x0 + c ∧ x0 + c < w ∧ 0 ≤ y0 + r ∧ y0 + r < h then some ((y0 + r).toNat, (x0 + c).toNat) else none

/-- Where sprite row r, column c of a draw lands: CHIP8 by R203, SCHIP by R204 (modulo first, then the scroll). -/
def spritePlace (s : State) (g : Geometry) (x y : RegIdx) (r c : Nat) : Option (Nat × Nat) :=
  match s.variant with
  | .chip8 => clampPlace ((s.reg x).toNat % 64) ((s.reg y).toNat % 32) r c
  | .schip =>
    clipPlace (planeWidth g.hi) (planeHeight g.hi)
      (((s.reg x).toNat % planeWidth g.hi : Nat) + s.scrollX.toInt)
      (((s.reg y).toNat % planeHeight g.hi : Nat) + s.scrollY.toInt) r c

/-- The pixels the set bits of a sprite land on, in drawing order. -/
def spriteTargets (bit : Nat → Nat → Bool) (place : Nat → Nat → Option (Nat × Nat)) (rows cols : Nat) :
    List (Nat × Nat) :=
  (List.range rows).flatMap fun r => (List.range cols).filterMap fun c => if bit r c then place r c else none

/-- The targets of `Dxyn` in a state. -/
def drawTargets (s : State) (x y : RegIdx) (n : Nibble) : List (Nat × Nat) :=
  let g := geometry s.variant s.highRes n
  spriteTargets (spriteBit s.mem s.i.toNat g.bpr) (spritePlace s g x y) g.rows (8 * g.bpr)

/-- A draw under way: the plane so far, `coll` and `toggled` of R203 and R204. -/
structure DrawAcc (w h : Nat) where
  plane : Plane w h
  coll : Bool
  toggled : Bool
  deriving DecidableEq, Repr

/-- One pixel XOR, on the plane as the previous one left it (R203). -/
def xorPixel {w h : Nat} (acc : DrawAcc w h) (t : Nat × Nat) : DrawAcc w h :=
  { plane := acc.plane.toggle t.1 t.2, coll := acc.coll || acc.plane.pixel t.1 t.2, toggled := true }

/-- All pixel XORs of a draw. -/
def xorPixels {w h : Nat} (p : Plane w h) (ts : List (Nat × Nat)) : DrawAcc w h := ts.foldl xorPixel ⟨p, false, false⟩

/-- The targets XORed into the plane of the geometry; VF is the collision, changed is set if a pixel was XORed and is
kept otherwise (R200, R205). -/
def drawInto (hi : Bool) (ts : List (Nat × Nat)) (s : State) : State :=
  match hi with
  | false =>
    let d := xorPixels s.fbLo ts
    State.setVF { s with fbLo := d.plane, changed := s.changed || d.toggled } d.coll
  | true =>
    let d := xorPixels s.fbHi ts
    State.setVF { s with fbHi := d.plane, changed := s.changed || d.toggled } d.coll

/-- Dxyn (R200): MemFault before anything when the whole sprite is not in memory (R206). -/
def execDrw (x y : RegIdx) (n : Nibble) (s : State) : Out :=
  let g := geometry s.variant s.highRes n
  if accessOk s.i (g.rows * g.bpr) then .next (drawInto g.hi (drawTargets s x y n) s.advance)
  else .next (s.raise .memFault)

end Sys2Proof.Machine
end

