-- ==== Sys2Proof/Machine/FamilyF.lean ====
section
/-! DEFINITION. Family F but for the key wait: timers, index arithmetic, fonts, BCD, register blocks and flag
registers (46_family_F.md). -/

namespace Sys2Proof.Machine

/-- Fx07 (R240). -/
def execLdVxDt (x : RegIdx) (s : State) : Out := .next (s.advance.setReg x s.dt)

/-- Fx15 (R250). -/
def execLdDtVx (x : RegIdx) (s : State) : Out := .next { s.advance with dt := s.reg x }

/-- Fx18 (R252). -/
def execLdStVx (x : RegIdx) (s : State) : Out := .next { s.advance with st := s.reg x }

/-- Fx1E (R256): I modulo 2^16, VF from the unreduced sum, written last and always. -/
def execAddI (x : RegIdx) (s : State) : Out :=
  .next ((s.advance.setI (s.i + wordOf (s.reg x))).setVF (indexFlag s.i (s.reg x)))

/-- Fx29 (R258). -/
def execLdF (x : RegIdx) (s : State) : Out := .next (s.advance.setI (smallDigitAddr (lowNibble (s.reg x))))

/-- Fx30 (R260). -/
def execLdHf (x : RegIdx) (s : State) : Out := .next (s.advance.setI (bigDigitAddr (lowNibble (s.reg x))))

/-- Fx33 (R262): MemFault before any byte is written; I unchanged. -/
def execLdB (x : RegIdx) (s : State) : Out :=
  if accessOk s.i 3 then .next (s.advance.setMem (s.mem.writeBytes s.i.toNat (bcd (s.reg x))))
  else .next (s.raise .memFault)

/-- Fx55 (R264): MemFault before any byte is written. -/
def execLdMemVx (x : RegIdx) (s : State) : Out :=
  if accessOk s.i (x.val + 1) then
    .next ((s.advance.setMem (s.mem.writeBytes s.i.toNat (regBlock s x))).setI (indexAfterBlock s x))
  else .next (s.raise .memFault)

/-- Fx65 (R266): MemFault before any register is written; the addresses use I as it was. -/
def execLdVxMem (x : RegIdx) (s : State) : Out :=
  if accessOk s.i (x.val + 1) then
    .next ((s.advance.setV (copyPrefix (fun k => s.mem.read (s.i.toNat + k)) (x.val + 1) s.v)).setI (indexAfterBlock s x))
  else .next (s.raise .memFault)

/-- Fx75 (R268). -/
def execLdRVx (x : RegIdx) (s : State) : Out :=
  .next { s.advance with r := copyPrefix (fun k => s.v[k]?.getD 0) (x.val + 1) s.r }

/-- Fx85 (R270). -/
def execLdVxR (x : RegIdx) (s : State) : Out :=
  .next (s.advance.setV (copyPrefix (fun k => s.r[k]?.getD 0) (x.val + 1) s.v))

end Sys2Proof.Machine
end

