-- ==== Sys2Proof/Machine/Index.lean ====
section
/-! DEFINITION. Families A, B, C: set index, jump with offset, random (43_index_jump_random.md). -/

namespace Sys2Proof.Machine

/-- Annn (R190). -/
def execLdI (nnn : Addr12) (s : State) : Out := .next (s.advance.setI (addrOf nnn))

/-- Bnnn (R192): the sum is not masked to 12 bits. -/
def execJpV0 (nnn : Addr12) (s : State) : Out :=
  .next (s.advance.setPc (addrOf nnn + wordOf (jumpOffset s nnn)))

/-- Cxkk with a given random byte (R194). -/
def rndWith (byte : Byte) (x : RegIdx) (kk : Byte) (s : State) : State := s.advance.setReg x (byte &&& kk)

/-- Cxkk (R194): the byte is the next draw, a free value (10_state.md R42; notes/assumptions/1.md). -/
def execRnd (x : RegIdx) (kk : Byte) (s : State) : Out :=
  .next { rndWith (Config.rnd s.draws) x kk s with draws := s.draws + 1 }

end Sys2Proof.Machine
end

