-- ==== Sys2Proof/Machine/Jump.lean ====
section
/-! DEFINITION. Families 1, 2, 3, 4, 5, 9: jump, call and conditional skip (41_jump_call_skip.md). Targets need no
alignment and are not validated here (R139). -/

namespace Sys2Proof.Machine

/-- 1nnn (R140). -/
def execJp (nnn : Addr12) (s : State) : Out := .next (s.advance.setPc (addrOf nnn))

/-- 2nnn (R142): the already advanced PC is pushed. -/
def execCall (nnn : Addr12) (s : State) : Out :=
  match s.push s.advance.pc with
  | some t => .next (t.setPc (addrOf nnn))
  | none => .next (s.raise .stackOverflow)

/-- 3xkk (R144). -/
def execSeImm (x : RegIdx) (kk : Byte) (s : State) : Out := .next (s.skipIf (s.reg x == kk))

/-- 4xkk (R145). -/
def execSneImm (x : RegIdx) (kk : Byte) (s : State) : Out := .next (s.skipIf (s.reg x != kk))

/-- 5xy0 (R146). -/
def execSeReg (x y : RegIdx) (s : State) : Out := .next (s.skipIf (s.reg x == s.reg y))

/-- 9xy0 (R147). -/
def execSneReg (x y : RegIdx) (s : State) : Out := .next (s.skipIf (s.reg x != s.reg y))

end Sys2Proof.Machine
end

