-- ==== Sys2Proof/Machine/Keys.lean ====
section
/-! DEFINITION. Family E, skip on key state (45_keys.md), and the key wait Fx0A (46_family_F.md R246). -/

namespace Sys2Proof.Machine

/-- Ex9E (R230). -/
def execSkp (x : RegIdx) (s : State) : Out := .next (s.skipIf (s.keyDown (lowNibble (s.reg x))))

/-- ExA1 (R231). -/
def execSknp (x : RegIdx) (s : State) : Out := .next (s.skipIf (!s.keyDown (lowNibble (s.reg x))))

/-- Fx0A (R246). Phase 1 (no key observed): record the lowest pressed key if there is one, and wait. Phase 2: wait
while the recorded key is down; once it is up, write its index and end the wait. Waiting leaves PC = pc0. -/
def execLdVxK (x : RegIdx) (s : State) : Out :=
  if s.waitKey then
    if s.keyDown s.waitIndex then .next { s with waiting := true }
    else .next { s.advance.setReg x (byteOfIdx s.waitIndex) with waitKey := false, waiting := false }
  else
    match s.firstKeyDown with
    | some k => .next { s with waitKey := true, waitIndex := k, waiting := true }
    | none => .next { s with waiting := true }

end Sys2Proof.Machine
end

