-- ==== Sys2Proof/Machine/Step.lean ====
section
/-! DEFINITION. One step (30_encoding.md R95, R96), and where the step fetches its next instruction. -/

namespace Sys2Proof.Machine

/-- One step: nothing at all while the machine is not running (R95); otherwise fetch at PC (FetchFault outside memory,
20_memory.md R66), decode under the variant as it is now (10_state.md R41), execute (R96). -/
def step (s : State) : Host.Outcome State Fault Refusal :=
  if s.running then
    if fetchOk s.pc then exec (decode s.variant (fetchWord s)) s
    else .next (s.raise .fetchFault)
  else .next s

/-- s with the instruction word w of nbits bits stored at PC, high byte first. A word that is an instruction only
under SCHIP also selects SCHIP: this stands for the host's SetVariant and LoadRom before the first step
(70_reset_and_hazards.md R335). DESIGN CHOICE, safe (notes/assumptions/6.md). -/
def State.withFetchWord (s : State) (nbits w : Nat) : State :=
  { s with
    mem := s.mem.writeBytes s.pc.toNat (wordBytes (BitVec.ofNat 16 (w % 2 ^ nbits)))
    variant := if schipOnlyWord (BitVec.ofNat 16 (w % 2 ^ nbits)) then .schip else s.variant }

end Sys2Proof.Machine
end

