-- ==== Sys2Proof/Machine/HostOps.lean ====
section
/-! DEFINITION. The host operations but for the step: each one atomic transition of the whole state (60_exceptions.md
R300 to R306; 70_reset_and_hazards.md R330, R331), and what the host reads. -/

namespace Sys2Proof.Machine

/-- PowerOn(FONT_SMALL, FONT_BIG) (R330): memory 0, the fonts at 0x050 and 0x0A0, then everything Reset does. The
variant is the host's. -/
def hostPowerOn (fontSmall : Vector Byte 80) (fontBig : Vector Byte 160) (s : State) : State :=
  let blank : Memory :=
    (Memory.writeBytes [] Config.fontSmallBase (List.replicate 240 0))
  let fonts := (blank.writeBytes Config.fontSmallBase fontSmall.toList).writeBytes Config.fontBigBase fontBig.toList
  State.resetFrom (s.setMem fonts)

/-- Reset (R331). -/
def hostReset (s : State) : State := s.resetFrom

/-- SetVariant(v) (R301). -/
def hostSetVariant (v : Variant) (s : State) : State := { s with variant := v }

/-- SetKey(k, b) (R304). -/
def hostSetKey (k : RegIdx) (b : Bool) (s : State) : State := { s with key := s.key.set k.val b }

/-- A countdown by one that stops at 0 (R302). -/
def countDown (b : Byte) : Byte := if b = 0 then 0 else b - 1

/-- TimerTick (R302): in every lifecycle state. -/
def hostTimerTick (s : State) : State := { s with dt := countDown s.dt, st := countDown s.st }

/-- ClearChanged (R306). -/
def hostClearChanged (s : State) : State := { s with changed := false }

/-- LoadRom(bytes) (R305): none is the failure reported to the host; then nothing has changed. -/
def hostLoadRom (bytes : List Byte) (s : State) : Option State :=
  if bytes.length ≤ Config.romMax then some (s.setMem (s.mem.writeBytes Config.romBase bytes)) else none

/-- The host operations of R300 but for Step. -/
inductive HostOp where
  | powerOn (fontSmall : Vector Byte 80) (fontBig : Vector Byte 160)
  | reset
  | loadRom (bytes : List Byte)
  | setVariant (v : Variant)
  | setKey (k : RegIdx) (b : Bool)
  | timerTick
  | clearChanged
  deriving DecidableEq, Repr

/-- The effect of a host operation on the core's state; a LoadRom that fails changes nothing (R305). -/
def applyHost (op : HostOp) (s : State) : State :=
  match op with
  | .powerOn fs fb => hostPowerOn fs fb s
  | .reset => hostReset s
  | .loadRom bytes => (hostLoadRom bytes s).getD s
  | .setVariant v => hostSetVariant v s
  | .setKey k b => hostSetKey k b s
  | .timerTick => hostTimerTick s
  | .clearChanged => hostClearChanged s

/-- Sound is on while ST != 0 (R303). -/
def soundOn (s : State) : Bool := s.st != 0

/-- A pixel of the plane the core offers for display: fb_hi when high_res = 1, fb_lo otherwise (10_state.md R47). -/
def presentedPixel (s : State) (row col : Nat) : Bool :=
  if s.highRes then s.fbHi.pixel row col else s.fbLo.pixel row col

end Sys2Proof.Machine
end

