-- ==== Sys2Proof/Machine/System.lean ====
section
/-! DEFINITION. The core and the host together: steps and host operations as atomic events in an order the host
chooses (00_scope.md R6; 60_exceptions.md R300, R310). DESIGN CHOICE, safe: they stand beside the step and not inside it
(notes/assumptions/14.md). -/

namespace Sys2Proof.Machine

/-- One atomic event: a host operation, or Step. -/
inductive Event where
  | host (op : HostOp)
  | step
  deriving DecidableEq, Repr

/-- One event on a state. -/
def transition (e : Event) (s : State) : Out :=
  match e with
  | .host op => .next (applyHost op s)
  | .step => step s

/-- A sequence of events, in order. -/
def runEvents : List Event → State → Out
  | [], s => .next s
  | e :: es, s =>
    match transition e s with
    | .next t => runEvents es t
    | .fault r => .fault r
    | .refused r => .refused r

/-- The request strobes that can be active in one cycle of a hardware implementation (R310). -/
structure Strobes where
  powerOn : Option (Vector Byte 80 × Vector Byte 160)
  reset : Bool
  setVariant : Option Variant
  setKey : List (RegIdx × Bool)
  loadRom : Option (List Byte)
  timerTick : Bool
  clearChanged : Bool
  step : Bool
  deriving DecidableEq, Repr

/-- The events one cycle's strobes stand for, in the order of R310: PowerOn or Reset alone if either is requested,
otherwise SetVariant, SetKey, LoadRom, TimerTick, ClearChanged, and last Step. PowerOn contains a Reset (R330), so it
stands for both when both are requested. DESIGN CHOICE, unsafe (notes/assumptions/11.md). -/
def strobeEvents (q : Strobes) : List Event :=
  match q.powerOn with
  | some (fs, fb) => [.host (.powerOn fs fb)]
  | none =>
    if q.reset then [.host .reset]
    else
      (q.setVariant.toList.map fun v => .host (.setVariant v))
        ++ (q.setKey.map fun kb => .host (.setKey kb.1 kb.2))
        ++ (q.loadRom.toList.map fun bs => .host (.loadRom bs))
        ++ (if q.timerTick then [.host .timerTick] else [])
        ++ (if q.clearChanged then [.host .clearChanged] else [])
        ++ (if q.step then [.step] else [])

/-- One cycle of a hardware implementation (R310). -/
def cycle (q : Strobes) (s : State) : Out := runEvents (strobeEvents q) s

end Sys2Proof.Machine
end

