-- ==== Sys2Proof/Safety.lean ====
section
/-! DEFINITION. What counts as a safe run, in the terms claims use: the lifecycle (10_state.md R40), the end of a run
(60_exceptions.md R312), which instruction faults when (R281, R287), what a step leaves unchanged, and the invariant of
the machine. -/

namespace Sys2Proof.Machine

/-- The lifecycle states (R40). -/
inductive Lifecycle where
  | running
  | waitingForKey
  | halted
  | faulted
  deriving DecidableEq, Repr

/-- The lifecycle state as a function of running, fault_cause and waiting (R40). -/
def State.lifecycle (s : State) : Lifecycle :=
  if s.running then (if s.waiting then .waitingForKey else .running)
  else if s.faultCause = .none then .halted else .faulted

/-- A run ended well: HALTED (R312). -/
abbrev GoodEnd (s : State) : Prop := s.running = false ∧ s.faultCause = .none

/-- A run ended badly: FAULTED (R312). It is never a final state of a correct run (R284). -/
abbrev BadEnd (s : State) : Prop := s.running = false ∧ s.faultCause ≠ .none

/-- The bytes an instruction accesses through I, L of R70: rows times bytes per row for Dxyn, 3 for Fx33, x + 1 for
Fx55 and Fx65, 0 for every other instruction. -/
def accessBytes (i : Instr) (s : State) : Nat :=
  match i with
  | .drw _ _ n => (geometry s.variant s.highRes n).rows * (geometry s.variant s.highRes n).bpr
  | .ldB _ => 3
  | .ldMemVx x => x.val + 1
  | .ldVxMem x => x.val + 1
  | .cls | .ret | .scd _ | .scr | .scl | .exit | .low | .high | .jp _ | .call _ | .seImm _ _ | .sneImm _ _ | .seReg _ _
  | .ldImm _ _ | .addImm _ _ | .ldReg _ _ | .orReg _ _ | .andReg _ _ | .xorReg _ _ | .addReg _ _ | .sub _ _ | .shr _ _
  | .subn _ _ | .shl _ _ | .sneReg _ _ | .ldI _ | .jpV0 _ | .rnd _ _ | .skp _ | .sknp _ | .ldVxDt _ | .ldVxK _
  | .ldDtVx _ | .ldStVx _ | .addI _ | .ldF _ | .ldHf _ | .ldRVx _ | .ldVxR _ | .unknown _ => 0

/-- The fault an instruction raises in a state, by the table of R281; none if it raises no fault. -/
def faultOf (i : Instr) (s : State) : FaultCause :=
  match i with
  | .ret => if s.sp.val = 0 then .stackUnderflow else .none
  | .call _ => if s.sp.val = 16 then .stackOverflow else .none
  | .drw _ _ _ | .ldB _ | .ldMemVx _ | .ldVxMem _ =>
    if 1 ≤ accessBytes i s ∧ s.i.toNat + accessBytes i s - 1 > 4095 then .memFault else .none
  | .cls | .scd _ | .scr | .scl | .exit | .low | .high | .jp _ | .seImm _ _ | .sneImm _ _ | .seReg _ _
  | .ldImm _ _ | .addImm _ _ | .ldReg _ _ | .orReg _ _ | .andReg _ _ | .xorReg _ _ | .addReg _ _ | .sub _ _ | .shr _ _
  | .subn _ _ | .shl _ _ | .sneReg _ _ | .ldI _ | .jpV0 _ | .rnd _ _ | .skp _ | .sknp _ | .ldVxDt _ | .ldVxK _
  | .ldDtVx _ | .ldStVx _ | .addI _ | .ldF _ | .ldHf _ | .ldRVx _ | .ldVxR _ | .unknown _ => .none

/-- Every byte of main memory reads as before. -/
def SameMem (s t : State) : Prop := ∀ a, t.mem.read a = s.mem.read a

/-- Every byte of main memory outside the n bytes from a reads as before. -/
def SameMemOutside (a n : Nat) (s t : State) : Prop := ∀ b, ¬(a ≤ b ∧ b < a + n) → t.mem.read b = s.mem.read b

/-- Nothing but PC has changed. -/
def OnlyPc (s t : State) : Prop := t = { s with pc := t.pc } ∧ SameMem s t

/-- Nothing but PC and the general registers named has changed. -/
def OnlyPcRegs (xs : List RegIdx) (s t : State) : Prop :=
  t = { s with pc := t.pc, v := t.v } ∧ (∀ k, k ∉ xs → t.reg k = s.reg k) ∧ SameMem s t

/-- A word decodes to an instruction under both variants. -/
def DecodesTo (w : Word) (i : Instr) : Prop := ∀ v, decode v w = i

/-- The instruction completes with PC = pc0 + 4 when c holds and pc0 + 2 when not, and changes nothing else
(41_jump_call_skip.md R139). -/
def Skips (i : Instr) (s : State) (c : Prop) : Prop :=
  ∃ t, exec i s = .next t ∧ (c → t.pc = s.pc + 4) ∧ (¬c → t.pc = s.pc + 2) ∧ OnlyPc s t

/-- T(p) of 44_draw.md R208: how many pairs (r, c) of a CHIP8 sprite with a set bit (bit 7 - c of the byte at I + r) the
clamp of R203 maps to the pixel p = (row, col). -/
def chip8Hits (s : State) (x y : RegIdx) (n : Nibble) (row col : Nat) : Nat :=
  ((Finset.range n.toNat ×ˢ Finset.range 8).filter fun rc =>
    (s.mem.read (s.i.toNat + rc.1)).getLsbD (7 - rc.2) = true ∧
      min ((s.reg y).toNat % 32 + rc.1) 31 = row ∧ min ((s.reg x).toNat % 64 + rc.2) 63 = col).card

/-- Whether a set bit of an SCHIP sprite of `rows` rows of `bpr` bytes lands on (row, col) of a W by H plane: modulo
first, then the signed scroll offsets, no wrap (44_draw.md R202, R204). -/
def schipHit (s : State) (w h rows bpr : Nat) (x y : RegIdx) (row col : Nat) : Prop :=
  ∃ r c : Nat, r < rows ∧ c < 8 * bpr ∧ (s.mem.read (s.i.toNat + r * bpr + c / 8)).getLsbD (7 - c % 8) = true ∧
    (((s.reg y).toNat % h : Nat) : Int) + s.scrollY.toInt + r = row ∧
    (((s.reg x).toNat % w : Nat) : Int) + s.scrollX.toInt + c = col

/-- The result of an SCHIP draw of `rows` rows of `bpr` bytes into a W by H plane: each pixel a set bit lands on is
toggled, VF is the collision, changed is set if a pixel was toggled and kept otherwise (44_draw.md R200, R204, R205). -/
def SchipDrawn (s t : State) (w h rows bpr : Nat) (x y : RegIdx) (before after : Plane w h) : Prop :=
  (∀ r c, r < h → c < w →
    (after.pixel r c = true ↔ ¬(before.pixel r c = true ↔ schipHit s w h rows bpr x y r c))) ∧
  (t.reg vfIdx = 0 ∨ t.reg vfIdx = 1) ∧
  (t.reg vfIdx = 1 ↔ ∃ r c, r < h ∧ c < w ∧ before.pixel r c = true ∧ schipHit s w h rows bpr x y r c) ∧
  (t.changed = true ↔ s.changed = true ∨ ∃ r c, r < h ∧ c < w ∧ schipHit s w h rows bpr x y r c)

/-- The invariant of the machine: memory in canonical form; PC at most 0x10FE (10_state.md R23); every valid stack
entry a pc0 + 2, hence 2..4096 (R122); a running machine has no fault cause (R40); an observed key means that Fx0A is
waiting (R38, R39). -/
abbrev State.Inv (s : State) : Prop :=
  s.mem.wf = true ∧ s.pc.toNat ≤ 0x10FE ∧
    (∀ k : Fin 16, k.val < s.sp.val → 2 ≤ (s.stack[k.val]).toNat ∧ (s.stack[k.val]).toNat ≤ 4096) ∧
    (s.running = true → s.faultCause = .none) ∧ (s.waitKey = true → s.waiting = true)

end Sys2Proof.Machine
end

