-- ==== Sys2Proof/Certificates/Slice0/Obligations.lean ====
section
/-! DEFINITION. The statements for the provers. Each docstring names the rule of spec/ it formalises; where a clause
rests on a decision the spec marks as its own (92_eei_decisions.md), the docstring names the decision. -/

open Sys2Proof Sys2Proof.Machine

/-! ## Encoding (30_encoding.md) -/

/-- Decoding the encoded word of a well-formed instruction gives it back, every operand at every value (R97, R99, R100). -/
def Obligations.DecodeOfEncode : Prop :=
  ∀ (v : Variant) (i : Instr), i.wellFormed v = true → decode v (encode i) = i

/-- No bit of a word is dropped: what a word decodes to is well formed and encodes back to the word (R97, R91). -/
def Obligations.EncodeOfDecode : Prop :=
  ∀ (v : Variant) (w : Word), (decode v w).wellFormed v = true ∧ encode (decode v w) = w

/-- The opcode map R100: a word that matches a row decodes to an instruction of that row, a word that matches no row to
UNKNOWN. -/
def Obligations.DecodeFollowsOpcodeMap : Prop :=
  ∀ (v : Variant) (w : Word),
    (∀ p ∈ opcodeMap, p.matchesWord v w = true → opcodePattern (decode v w) = p) ∧
    ((∀ p ∈ opcodeMap, p.matchesWord v w = false) → decode v w = .unknown w)

/-- The patterns of R100 are pairwise disjoint (R97): no word matches two rows. -/
def Obligations.OpcodeRowsDisjoint : Prop :=
  opcodeMap.Pairwise fun p q => ∀ v w, ¬(p.matchesWord v w = true ∧ q.matchesWord v w = true)

/-- The UNKNOWN words are exactly those that R101 lists family by family (R101 is marked derived in the spec). -/
def Obligations.UnknownWordsAreTheListed : Prop :=
  ∀ (v : Variant) (w : Word), decode v w = .unknown w ↔ unknownWord v w = true

/-- Variant gating R98 (decision D10 of the spec): the six family-0 patterns decode to their instruction only under
SCHIP and to UNKNOWN under CHIP8; every other word decodes the same under both. -/
def Obligations.SchipOnlyWordsGated : Prop :=
  (∀ n : Nibble, decode .schip (pack 0x0 0x0 0xC n) = .scd n) ∧
  decode .schip 0x00FB = .scr ∧ decode .schip 0x00FC = .scl ∧ decode .schip 0x00FD = .exit ∧
  decode .schip 0x00FE = .low ∧ decode .schip 0x00FF = .high ∧
  (∀ n : Nibble, decode .chip8 (pack 0x0 0x0 0xC n) = .unknown (pack 0x0 0x0 0xC n)) ∧
  (∀ w ∈ [0x00FB#16, 0x00FC#16, 0x00FD#16, 0x00FE#16, 0x00FF#16], decode .chip8 w = .unknown w) ∧
  (∀ w : Word, (∀ n : Nibble, w ≠ pack 0x0 0x0 0xC n) →
    w ∉ [0x00FB#16, 0x00FC#16, 0x00FD#16, 0x00FE#16, 0x00FF#16] → decode .chip8 w = decode .schip w)

/-- A few words written out from the patterns of R100 decode to what they stand for. -/
def Obligations.ExampleWordsDecode : Prop :=
  DecodesTo 0x00E0 .cls ∧ DecodesTo 0x1234 (.jp 0x234) ∧ DecodesTo 0x332A (.seImm 3 0x2A) ∧
  DecodesTo 0x6A3C (.ldImm 10 0x3C) ∧ DecodesTo 0x8014 (.addReg 0 1) ∧ DecodesTo 0xA2F0 (.ldI 0x2F0) ∧
  DecodesTo 0xC10F (.rnd 1 0x0F) ∧ DecodesTo 0xD125 (.drw 1 2 5) ∧ DecodesTo 0xE29E (.skp 2) ∧
  DecodesTo 0xF433 (.ldB 4) ∧ DecodesTo 0x5121 (.unknown 0x5121) ∧ decode .schip 0x00C3 = .scd 3

/-! ## The step, faults and the lifecycle -/

/-- A step of a running machine whose two bytes at PC are in memory executes the instruction they decode to, high byte
first, under the variant of the state, and nothing stands around it: exec starts from the state the step found (R96, R63). -/
def Obligations.StepRunsDecodedInstruction : Prop :=
  ∀ s : State, s.running = true → s.pc.toNat + 1 ≤ 4095 →
    step s = exec (decode s.variant (s.mem.read s.pc.toNat ++ s.mem.read (s.pc.toNat + 1))) s

/-- Fetch bounds R66 with the entry of R284 (decisions D1, D6 of the spec): with pc0 + 1 > 4095 the step raises
FetchFault and nothing is executed. -/
def Obligations.FetchOutsideMemoryFaults : Prop :=
  ∀ s : State, s.running = true → s.pc.toNat + 1 > 4095 →
    step s = .next { s with running := false, faultCause := .fetchFault }

/-- R95 (decision D36 of the spec for FAULTED): a step of a machine that is not running changes no state at all. -/
def Obligations.StoppedMachineIgnoresSteps : Prop :=
  ∀ s : State, s.running = false → step s = .next s

/-- Every step keeps the invariant of the machine (Safety.lean): canonical memory, PC at most 0x10FE (R23), valid stack
entries in 2..4096 (R122), no fault cause while running (R40), no observed key without a waiting Fx0A (R38, R39). -/
def Obligations.InvariantKeptByStep : Prop :=
  ∀ s t : State, s.Inv → step s = .next t → t.Inv

/-- The invariant holds at reset. -/
def Obligations.InvariantAtReset : Prop := State.reset.Inv

/-- Every host operation keeps the invariant of the machine (R300). -/
def Obligations.InvariantKeptByHostOps : Prop :=
  ∀ (op : HostOp) (s : State), s.Inv → (applyHost op s).Inv

/-- The fault table R281 with the precise entry of R284 (decisions D1 to D5 of the spec): an instruction whose condition
in the table holds leaves the state before it but for running and the cause; an instruction whose condition does not hold
raises nothing, and only EXIT stops the machine. -/
def Obligations.FaultsExactlyByTheTable : Prop :=
  ∀ (i : Instr) (s : State),
    (faultOf i s ≠ .none → exec i s = .next { s with running := false, faultCause := faultOf i s }) ∧
    (faultOf i s = .none → ∃ t, exec i s = .next t ∧ t.faultCause = s.faultCause ∧
      (i ≠ .exit → t.running = s.running))

/-- R36: running is cleared by 00FD under SCHIP and by every fault, and by nothing else a step does. -/
def Obligations.StopsOnlyByExitOrFault : Prop :=
  ∀ s t : State, s.running = true → step s = .next t → t.running = false →
    (s.variant = .schip ∧ fetchWord s = 0x00FD ∧ t.faultCause = s.faultCause ∧ t.pc = s.pc + 2) ∨
    (∃ c, c ≠ .none ∧ t = { s with running := false, faultCause := c })

/-- FAULTED is left only by Reset or PowerOn, and the cause stays the first one (R285, marked derived in the spec; R37):
whatever other events happen, the machine stays FAULTED with its cause, PC, registers and planes; Reset then restarts it. -/
def Obligations.FaultedUntilReset : Prop :=
  (∀ (es : List Event) (s : State), BadEnd s →
    (∀ e ∈ es, e ≠ .host .reset ∧ ∀ fs fb, e ≠ .host (.powerOn fs fb)) →
    ∃ t, runEvents es s = .next t ∧ t.running = false ∧ t.faultCause = s.faultCause ∧ t.pc = s.pc ∧ t.v = s.v ∧
      t.fbLo = s.fbLo ∧ t.fbHi = s.fbHi) ∧
  (∀ s : State, ∃ t, runEvents [.host .reset] s = .next t ∧ t.running = true ∧ t.faultCause = .none)

/-- The keypad and the variant are written by no step (R31, R41). -/
def Obligations.InputsNeverWrittenByCore : Prop :=
  ∀ s t : State, step s = .next t → t.key = s.key ∧ t.variant = s.variant

/-- Who writes I, the flag registers and the timers (R24, R26, R32, R33): no other instruction changes them. -/
def Obligations.IndexTimersFlagRegistersWriters : Prop :=
  ∀ (i : Instr) (s t : State), exec i s = .next t →
    (t.i ≠ s.i → (∃ nnn, i = .ldI nnn) ∨ (∃ x, i = .addI x ∨ i = .ldF x ∨ i = .ldHf x) ∨
      (s.variant = .chip8 ∧ ∃ x, i = .ldMemVx x ∨ i = .ldVxMem x)) ∧
    (t.r ≠ s.r → ∃ x, i = .ldRVx x) ∧
    (t.dt ≠ s.dt → ∃ x, i = .ldDtVx x) ∧
    (t.st ≠ s.st → ∃ x, i = .ldStVx x)

/-- Who writes main memory (R64): only Fx33 and Fx55, and only the bytes they name. -/
def Obligations.MemoryWriters : Prop :=
  ∀ (i : Instr) (s t : State), s.mem.wf = true → exec i s = .next t → ∀ a, t.mem.read a ≠ s.mem.read a →
    (∃ x, i = .ldB x ∧ s.i.toNat ≤ a ∧ a < s.i.toNat + 3) ∨
    (∃ x, i = .ldMemVx x ∧ s.i.toNat ≤ a ∧ a < s.i.toNat + (x.val + 1))

/-- Who writes the planes and the changed flag (R28, R29, R30): 00E0 and Dxyn, the high plane only under SCHIP with
high_res = 1; no instruction clears changed. -/
def Obligations.PlaneWriters : Prop :=
  ∀ (i : Instr) (s t : State), exec i s = .next t →
    (t.fbLo ≠ s.fbLo → i = .cls ∨ ((s.variant = .chip8 ∨ s.highRes = false) ∧ ∃ x y n, i = .drw x y n)) ∧
    (t.fbHi ≠ s.fbHi → i = .cls ∨ (s.variant = .schip ∧ s.highRes = true ∧ ∃ x y n, i = .drw x y n)) ∧
    (t.changed ≠ s.changed → t.changed = true ∧ (i = .cls ∨ ∃ x y n, i = .drw x y n))

/-- Who writes the scroll offsets, the resolution, the stack and the key-wait state (R34, R35, R25, R38, R39): no other
instruction changes them. -/
def Obligations.ModeStackAndWaitWriters : Prop :=
  ∀ (i : Instr) (s t : State), exec i s = .next t →
    (t.scrollX ≠ s.scrollX → i = .scr ∨ i = .scl) ∧
    (t.scrollY ≠ s.scrollY → ∃ n, i = .scd n) ∧
    (t.highRes ≠ s.highRes → i = .low ∨ i = .high) ∧
    (t.sp ≠ s.sp → i = .ret ∨ ∃ nnn, i = .call nnn) ∧
    (t.stack ≠ s.stack → ∃ nnn, i = .call nnn) ∧
    (t.waitKey ≠ s.waitKey ∨ t.waitIndex ≠ s.waitIndex ∨ t.waiting ≠ s.waiting → ∃ x, i = .ldVxK x)

/-- How PC changes (R23): an instruction that completes leaves pc0 + 2 but for the listed exceptions, an instruction that
faults leaves pc0. -/
def Obligations.ProgramCounterRule : Prop :=
  ∀ (i : Instr) (s t : State), exec i s = .next t →
    (faultOf i s ≠ .none → t.pc = s.pc) ∧
    (faultOf i s = .none →
      t.pc = s.pc + 2 ∨
      (∃ nnn, (i = .jp nnn ∨ i = .call nnn) ∧ t.pc.toNat = nnn.toNat) ∨
      (∃ nnn, i = .jpV0 nnn ∧ nnn.toNat ≤ t.pc.toNat ∧ t.pc.toNat ≤ nnn.toNat + 255) ∨
      (i = .ret ∧ s.stack[s.sp.val - 1]? = some t.pc) ∨
      (t.pc = s.pc + 4 ∧ ((∃ x kk, i = .seImm x kk ∨ i = .sneImm x kk) ∨ (∃ x y, i = .seReg x y ∨ i = .sneReg x y) ∨
        ∃ x, i = .skp x ∨ i = .sknp x)) ∨
      (t.pc = s.pc ∧ t.waiting = true ∧ ∃ x, i = .ldVxK x))

/-! ## Family 0 (40_family0_control.md) -/

/-- CLS (R121). -/
def Obligations.ClearDisplay : Prop :=
  DecodesTo 0x00E0 .cls ∧
  ∀ s : State, ∃ t, exec .cls s = .next t ∧
    (∀ r c, t.fbLo.pixel r c = false) ∧ (∀ r c, t.fbHi.pixel r c = false) ∧ t.changed = true ∧ t.pc = s.pc + 2 ∧
    t = { s with pc := t.pc, fbLo := t.fbLo, fbHi := t.fbHi, changed := t.changed } ∧ SameMem s t

/-- RET (R122; StackUnderflow is decision D4 of the spec). That the popped address lies in 2..4096 holds of a state that
meets the invariant. -/
def Obligations.ReturnFromSubroutine : Prop :=
  DecodesTo 0x00EE .ret ∧
  (∀ s : State, 0 < s.sp.val → ∃ t, exec .ret s = .next t ∧ t.sp.val = s.sp.val - 1 ∧
    s.stack[s.sp.val - 1]? = some t.pc ∧ t = { s with pc := t.pc, sp := t.sp } ∧ SameMem s t ∧
    (s.Inv → 2 ≤ t.pc.toNat ∧ t.pc.toNat ≤ 4096)) ∧
  (∀ s : State, s.sp.val = 0 → exec .ret s = .next { s with running := false, faultCause := .stackUnderflow })

/-- SCD, SCR, SCL (R126, R127, R128; decision D12 of the spec): the offsets as signed integers, wrapped to 16 bits. -/
def Obligations.ScrollOffsetsMove : Prop :=
  (∀ n : Nibble, decode .schip (pack 0x0 0x0 0xC n) = .scd n) ∧ decode .schip 0x00FB = .scr ∧
  decode .schip 0x00FC = .scl ∧
  (∀ w : Word, schipOnlyWord w = true → decode .chip8 w = .unknown w) ∧
  ∀ s : State,
    (∀ n : Nibble, ∃ t, exec (.scd n) s = .next t ∧ t.scrollY.toInt = (s.scrollY.toInt + n.toNat).bmod (2 ^ 16) ∧
      t.pc = s.pc + 2 ∧ t = { s with pc := t.pc, scrollY := t.scrollY } ∧ SameMem s t) ∧
    (∃ t, exec .scr s = .next t ∧ t.scrollX.toInt = (s.scrollX.toInt + 4).bmod (2 ^ 16) ∧
      t.pc = s.pc + 2 ∧ t = { s with pc := t.pc, scrollX := t.scrollX } ∧ SameMem s t) ∧
    (∃ t, exec .scl s = .next t ∧ t.scrollX.toInt = (s.scrollX.toInt - 4).bmod (2 ^ 16) ∧
      t.pc = s.pc + 2 ∧ t = { s with pc := t.pc, scrollX := t.scrollX } ∧ SameMem s t)

/-- EXIT, LOW, HIGH (R130, R131, R132; 00FE and 00FF as two values is decision D13 of the spec). -/
def Obligations.ExitAndResolution : Prop :=
  decode .schip 0x00FD = .exit ∧ decode .schip 0x00FE = .low ∧ decode .schip 0x00FF = .high ∧
  (∀ w ∈ [0x00FD#16, 0x00FE#16, 0x00FF#16], decode .chip8 w = .unknown w) ∧
  ∀ s : State,
    (∃ t, exec .exit s = .next t ∧ t.running = false ∧ t.faultCause = s.faultCause ∧ t.pc = s.pc + 2 ∧
      t = { s with pc := t.pc, running := t.running } ∧ SameMem s t ∧ step t = .next t) ∧
    (∃ t, exec .low s = .next t ∧ t.highRes = false ∧ t.pc = s.pc + 2 ∧
      t = { s with pc := t.pc, highRes := t.highRes } ∧ SameMem s t) ∧
    (∃ t, exec .high s = .next t ∧ t.highRes = true ∧ t.pc = s.pc + 2 ∧
      t = { s with pc := t.pc, highRes := t.highRes } ∧ SameMem s t)

/-- UNKNOWN (R134): a running machine that fetches a word matching no pattern only advances PC by 2; and so does exec of
every unknown word. -/
def Obligations.UnknownIsNoOperation : Prop :=
  (∀ (w : Word) (s : State), ∃ t, exec (.unknown w) s = .next t ∧ t.pc = s.pc + 2 ∧ OnlyPc s t) ∧
  (∀ s : State, s.running = true → s.pc.toNat + 1 ≤ 4095 → unknownWord s.variant (fetchWord s) = true →
    ∃ t, step s = .next t ∧ t.pc = s.pc + 2 ∧ OnlyPc s t)

/-! ## Jumps, calls, skips (41_jump_call_skip.md; 43_index_jump_random.md R192) -/

/-- JP nnn (R140). -/
def Obligations.JumpAbsolute : Prop :=
  ∀ (nnn : Addr12) (s : State), DecodesTo (packA 0x1 nnn) (.jp nnn) ∧
    ∃ t, exec (.jp nnn) s = .next t ∧ t.pc.toNat = nnn.toNat ∧ OnlyPc s t

/-- CALL nnn (R142; the depth 16 is decision D3 of the spec). -/
def Obligations.CallPushesAdvancedPc : Prop :=
  ∀ (nnn : Addr12) (s : State), DecodesTo (packA 0x2 nnn) (.call nnn) ∧
    (s.sp.val < 16 → ∃ t, exec (.call nnn) s = .next t ∧ t.pc.toNat = nnn.toNat ∧ t.sp.val = s.sp.val + 1 ∧
      t.stack[s.sp.val]? = some (s.pc + 2) ∧ (∀ k, k ≠ s.sp.val → t.stack[k]? = s.stack[k]?) ∧
      t = { s with pc := t.pc, sp := t.sp, stack := t.stack } ∧ SameMem s t) ∧
    (s.sp.val = 16 → exec (.call nnn) s = .next { s with running := false, faultCause := .stackOverflow })

/-- A return after a call continues behind the call with the depth it had (R142, R122, R25). -/
def Obligations.CallThenReturn : Prop :=
  ∀ (nnn : Addr12) (s t : State), s.sp.val < 16 → exec (.call nnn) s = .next t →
    ∃ u, exec .ret t = .next u ∧ u.pc = s.pc + 2 ∧ u.sp = s.sp ∧ (∀ k, k < s.sp.val → u.stack[k]? = s.stack[k]?) ∧
      u = { s with pc := u.pc, stack := u.stack } ∧ SameMem s u

/-- The four register and immediate skips (R144, R145, R146, R147); the words of families 5 and 9 with another last digit
are UNKNOWN. -/
def Obligations.ConditionalSkips : Prop :=
  ∀ (x y : RegIdx) (kk : Byte) (s : State),
    DecodesTo (packXK 0x3 x kk) (.seImm x kk) ∧ DecodesTo (packXK 0x4 x kk) (.sneImm x kk) ∧
    DecodesTo (packXY 0x5 x y 0x0) (.seReg x y) ∧ DecodesTo (packXY 0x9 x y 0x0) (.sneReg x y) ∧
    (∀ d : Nibble, d ≠ 0 → DecodesTo (packXY 0x5 x y d) (.unknown (packXY 0x5 x y d)) ∧
      DecodesTo (packXY 0x9 x y d) (.unknown (packXY 0x9 x y d))) ∧
    Skips (.seImm x kk) s (s.reg x = kk) ∧ Skips (.sneImm x kk) s (s.reg x ≠ kk) ∧
    Skips (.seReg x y) s (s.reg x = s.reg y) ∧ Skips (.sneReg x y) s (s.reg x ≠ s.reg y)

/-- JP V0, nnn (R192; not masked by decision D18 of the spec): V0 under CHIP8, the register of the top digit of nnn under
SCHIP. -/
def Obligations.JumpWithOffset : Prop :=
  ∀ (nnn : Addr12) (s : State), DecodesTo (packA 0xB nnn) (.jpV0 nnn) ∧
    ∃ t, exec (.jpV0 nnn) s = .next t ∧
      (s.variant = .chip8 → t.pc.toNat = nnn.toNat + (s.reg 0).toNat) ∧
      (s.variant = .schip → ∀ x : RegIdx, x.val = nnn.toNat / 256 → t.pc.toNat = nnn.toNat + (s.reg x).toNat) ∧
      t.pc.toNat ≤ 0x10FE ∧ OnlyPc s t

/-! ## Load, add and the ALU (42_load_alu.md) -/

/-- LD Vx, kk; ADD Vx, kk; LD Vx, Vy (R162, R163, R165): no flag, also when the sum exceeds 255. -/
def Obligations.LoadMoveAddImmediate : Prop :=
  ∀ (x y : RegIdx) (kk : Byte) (s : State),
    DecodesTo (packXK 0x6 x kk) (.ldImm x kk) ∧ DecodesTo (packXK 0x7 x kk) (.addImm x kk) ∧
    DecodesTo (packXY 0x8 x y 0x0) (.ldReg x y) ∧
    (∃ t, exec (.ldImm x kk) s = .next t ∧ t.reg x = kk ∧ t.pc = s.pc + 2 ∧ OnlyPcRegs [x] s t) ∧
    (∃ t, exec (.addImm x kk) s = .next t ∧ (t.reg x).toNat = ((s.reg x).toNat + kk.toNat) % 256 ∧ t.pc = s.pc + 2 ∧
      OnlyPcRegs [x] s t) ∧
    (∃ t, exec (.ldReg x y) s = .next t ∧ t.reg x = s.reg y ∧ t.pc = s.pc + 2 ∧ OnlyPcRegs [x] s t)

/-- OR, AND, XOR (R166, R167, R168; write order R160, decision D8 of the spec): bit by bit; under CHIP8 VF ends 0, under
SCHIP it is left untouched. -/
def Obligations.LogicAndTheVFQuirk : Prop :=
  ∀ (x y : RegIdx) (s : State),
    DecodesTo (packXY 0x8 x y 0x1) (.orReg x y) ∧ DecodesTo (packXY 0x8 x y 0x2) (.andReg x y) ∧
    DecodesTo (packXY 0x8 x y 0x3) (.xorReg x y) ∧
    ∀ (i : Instr) (f : Bool → Bool → Bool),
      (i = .orReg x y ∧ f = or) ∨ (i = .andReg x y ∧ f = and) ∨ (i = .xorReg x y ∧ f = xor) →
      ∃ t, exec i s = .next t ∧
        (s.variant = .schip ∨ x ≠ vfIdx →
          ∀ b < 8, (t.reg x).getLsbD b = f ((s.reg x).getLsbD b) ((s.reg y).getLsbD b)) ∧
        (s.variant = .chip8 → t.reg vfIdx = 0) ∧
        (s.variant = .schip → x ≠ vfIdx → t.reg vfIdx = s.reg vfIdx) ∧
        t.pc = s.pc + 2 ∧ OnlyPcRegs [x, vfIdx] s t

/-- ADD Vx, Vy (R169; flag written last, R160, decision D8 of the spec). -/
def Obligations.AddWithCarry : Prop :=
  ∀ (x y : RegIdx) (s : State), DecodesTo (packXY 0x8 x y 0x4) (.addReg x y) ∧
    ∃ t, exec (.addReg x y) s = .next t ∧
      (x ≠ vfIdx → (t.reg x).toNat = ((s.reg x).toNat + (s.reg y).toNat) % 256) ∧
      t.reg vfIdx = (if (s.reg x).toNat + (s.reg y).toNat > 255 then 1 else 0) ∧
      t.pc = s.pc + 2 ∧ OnlyPcRegs [x, vfIdx] s t

/-- SUB and SUBN (R170, R172; flag written last, R160, decision D8 of the spec). -/
def Obligations.SubtractNoBorrow : Prop :=
  ∀ (x y : RegIdx) (s : State),
    DecodesTo (packXY 0x8 x y 0x5) (.sub x y) ∧ DecodesTo (packXY 0x8 x y 0x7) (.subn x y) ∧
    (∃ t, exec (.sub x y) s = .next t ∧
      (x ≠ vfIdx → ((t.reg x).toNat : Int) = ((s.reg x).toNat - (s.reg y).toNat : Int) % 256) ∧
      t.reg vfIdx = (if (s.reg x).toNat ≥ (s.reg y).toNat then 1 else 0) ∧
      t.pc = s.pc + 2 ∧ OnlyPcRegs [x, vfIdx] s t) ∧
    (∃ t, exec (.subn x y) s = .next t ∧
      (x ≠ vfIdx → ((t.reg x).toNat : Int) = ((s.reg y).toNat - (s.reg x).toNat : Int) % 256) ∧
      t.reg vfIdx = (if (s.reg y).toNat ≥ (s.reg x).toNat then 1 else 0) ∧
      t.pc = s.pc + 2 ∧ OnlyPcRegs [x, vfIdx] s t)

/-- SHR and SHL (R171, R173; flag written last, R160, decision D8 of the spec): the source is Vy under CHIP8 and Vx under
SCHIP. -/
def Obligations.ShiftByOne : Prop :=
  ∀ (x y : RegIdx) (s : State) (src : Nat),
    (s.variant = .chip8 ∧ src = (s.reg y).toNat) ∨ (s.variant = .schip ∧ src = (s.reg x).toNat) →
    DecodesTo (packXY 0x8 x y 0x6) (.shr x y) ∧ DecodesTo (packXY 0x8 x y 0xE) (.shl x y) ∧
    (∃ t, exec (.shr x y) s = .next t ∧ (x ≠ vfIdx → (t.reg x).toNat = src / 2) ∧ (t.reg vfIdx).toNat = src % 2 ∧
      t.pc = s.pc + 2 ∧ OnlyPcRegs [x, vfIdx] s t) ∧
    (∃ t, exec (.shl x y) s = .next t ∧ (x ≠ vfIdx → (t.reg x).toNat = src * 2 % 256) ∧
      (t.reg vfIdx).toNat = src / 128 ∧ t.pc = s.pc + 2 ∧ OnlyPcRegs [x, vfIdx] s t)

/-- What an instruction ignores (R106, R201): under SCHIP the shifts ignore y; under CHIP8 the draw ignores high_res and
the scroll offsets. -/
def Obligations.IgnoredInputs : Prop :=
  (∀ (x y y' : RegIdx) (s : State), s.variant = .schip →
    exec (.shr x y) s = exec (.shr x y') s ∧ exec (.shl x y) s = exec (.shl x y') s) ∧
  (∀ (x y : RegIdx) (n : Nibble) (s t : State) (h : Bool) (sx sy : BitVec 16), s.variant = .chip8 →
    exec (.drw x y n) s = .next t →
    exec (.drw x y n) { s with highRes := h, scrollX := sx, scrollY := sy } =
      .next { t with highRes := h, scrollX := sx, scrollY := sy })

/-! ## Index and random (43_index_jump_random.md) -/

/-- LD I, nnn (R190). -/
def Obligations.LoadIndex : Prop :=
  ∀ (nnn : Addr12) (s : State), DecodesTo (packA 0xA nnn) (.ldI nnn) ∧
    ∃ t, exec (.ldI nnn) s = .next t ∧ t.i.toNat = nnn.toNat ∧ t.pc = s.pc + 2 ∧
      t = { s with pc := t.pc, i := t.i } ∧ SameMem s t

/-- RND Vx, kk (R194): the random byte is a free value under no law (`Config.rnd`, notes/assumptions/1.md); the next draw
is another one. -/
def Obligations.RandomMasked : Prop :=
  ∀ (x : RegIdx) (kk : Byte) (s : State), DecodesTo (packXK 0xC x kk) (.rnd x kk) ∧
    ∃ t, exec (.rnd x kk) s = .next t ∧ t.reg x = Config.rnd s.draws &&& kk ∧ t.reg x &&& ~~~kk = 0 ∧
      (∀ k, k ≠ x → t.reg k = s.reg k) ∧ t.pc = s.pc + 2 ∧ t.draws = s.draws + 1 ∧
      t = { s with pc := t.pc, v := t.v, draws := t.draws } ∧ SameMem s t

/-! ## Draw (44_draw.md) -/

/-- The CHIP8 draw in the closed form of R208 (marked derived in the spec; R201, R203, R205, R206, decisions D5, D15, D16,
D33): with T(p) the number of set sprite bits that the clamp maps to pixel p, pixel p is toggled T(p) times, VF tells whether
a lit pixel was hit or a pixel was hit twice, and changed is set if any pixel was hit. With n = 0 (decision D17 of the spec)
there are no rows: every T(p) is 0, nothing is drawn and VF is 0, whatever I is. -/
def Obligations.Chip8DrawClosedForm : Prop :=
  ∀ (x y : RegIdx) (n : Nibble) (s : State), s.variant = .chip8 → (n.toNat = 0 ∨ s.i.toNat + n.toNat - 1 ≤ 4095) →
    ∃ t, exec (.drw x y n) s = .next t ∧
      (∀ r c, r < 32 → c < 64 →
        t.fbLo.pixel r c = (s.fbLo.pixel r c ^^ decide (chip8Hits s x y n r c % 2 = 1))) ∧
      (t.reg vfIdx = 0 ∨ t.reg vfIdx = 1) ∧
      (t.reg vfIdx = 1 ↔ ∃ r c, r < 32 ∧ c < 64 ∧
        ((s.fbLo.pixel r c = true ∧ 1 ≤ chip8Hits s x y n r c) ∨ 2 ≤ chip8Hits s x y n r c)) ∧
      (t.changed = true ↔ s.changed = true ∨ ∃ r c, r < 32 ∧ c < 64 ∧ 1 ≤ chip8Hits s x y n r c) ∧
      (∀ k, k ≠ vfIdx → t.reg k = s.reg k) ∧ t.pc = s.pc + 2 ∧
      t = { s with pc := t.pc, v := t.v, fbLo := t.fbLo, changed := t.changed } ∧ SameMem s t

/-- The SCHIP draw (R201, R204, R205, R206, decisions D5, D12, D14 to D17 of the spec): plane, size and shape by
high_res and n, the scroll added after the modulo, everything outside the plane clipped. -/
def Obligations.SchipDrawScrollsAndClips : Prop :=
  ∀ (x y : RegIdx) (n : Nibble) (s : State), s.variant = .schip →
    (s.highRes = false → n.toNat = 0 ∨ s.i.toNat + n.toNat - 1 ≤ 4095 → ∃ t, exec (.drw x y n) s = .next t ∧
      SchipDrawn s t 64 32 n.toNat 1 x y s.fbLo t.fbLo ∧ (∀ k, k ≠ vfIdx → t.reg k = s.reg k) ∧ t.pc = s.pc + 2 ∧
      t = { s with pc := t.pc, v := t.v, fbLo := t.fbLo, changed := t.changed } ∧ SameMem s t) ∧
    (s.highRes = true → n ≠ 0 → s.i.toNat + n.toNat - 1 ≤ 4095 → ∃ t, exec (.drw x y n) s = .next t ∧
      SchipDrawn s t 128 64 n.toNat 1 x y s.fbHi t.fbHi ∧ (∀ k, k ≠ vfIdx → t.reg k = s.reg k) ∧ t.pc = s.pc + 2 ∧
      t = { s with pc := t.pc, v := t.v, fbHi := t.fbHi, changed := t.changed } ∧ SameMem s t) ∧
    (s.highRes = true → n = 0 → s.i.toNat + 31 ≤ 4095 → ∃ t, exec (.drw x y n) s = .next t ∧
      SchipDrawn s t 128 64 16 2 x y s.fbHi t.fbHi ∧ (∀ k, k ≠ vfIdx → t.reg k = s.reg k) ∧ t.pc = s.pc + 2 ∧
      t = { s with pc := t.pc, v := t.v, fbHi := t.fbHi, changed := t.changed } ∧ SameMem s t)

/-- Drawing the same sprite twice at the same coordinates restores every pixel (R207, marked derived in the spec), under
both variants and in both resolutions, and the second draw collides if the first left lit a pixel it hit. VF must not be
one of the coordinates, since the first draw writes it. -/
def Obligations.DrawTwiceRestores : Prop :=
  ∀ (x y : RegIdx) (n : Nibble) (s t : State), x ≠ vfIdx → y ≠ vfIdx → faultOf (.drw x y n) s = .none →
    exec (.drw x y n) s = .next t →
    ∃ u, exec (.drw x y n) t = .next u ∧
      (∀ r c, r < 32 → c < 64 → u.fbLo.pixel r c = s.fbLo.pixel r c) ∧
      (∀ r c, r < 64 → c < 128 → u.fbHi.pixel r c = s.fbHi.pixel r c) ∧
      (∀ p ∈ drawTargets s x y n,
        (if (geometry s.variant s.highRes n).hi then t.fbHi.pixel p.1 p.2 else t.fbLo.pixel p.1 p.2) = true →
        u.reg vfIdx = 1)

/-! ## Keys (45_keys.md; 46_family_F.md R246, R247) -/

/-- SKP and SKNP (R230, R231, R232; the mask is decision D19 of the spec): the key named by the low four bits of Vx; a word
of family E with another low byte is UNKNOWN. -/
def Obligations.KeySkips : Prop :=
  ∀ (x : RegIdx) (s : State) (k : RegIdx), k.val = (s.reg x).toNat % 16 →
    DecodesTo (packXF 0xE x 0x9E) (.skp x) ∧ DecodesTo (packXF 0xE x 0xA1) (.sknp x) ∧
    (∀ kk : Byte, kk ≠ 0x9E → kk ≠ 0xA1 → DecodesTo (packXF 0xE x kk) (.unknown (packXF 0xE x kk))) ∧
    Skips (.skp x) s (s.keyDown k = true) ∧ Skips (.sknp x) s (s.keyDown k = false)

/-- LD Vx, K (R246; decision D20 of the spec): the four cases of one step. -/
def Obligations.KeyWaitPhases : Prop :=
  ∀ (x : RegIdx) (s : State), DecodesTo (packXF 0xF x 0x0A) (.ldVxK x) ∧
    (s.waitKey = false → (∀ k, s.keyDown k = false) → exec (.ldVxK x) s = .next { s with waiting := true }) ∧
    (∀ k : RegIdx, s.waitKey = false → s.keyDown k = true → (∀ j, j < k → s.keyDown j = false) →
      exec (.ldVxK x) s = .next { s with waitKey := true, waitIndex := k, waiting := true }) ∧
    (s.waitKey = true → s.keyDown s.waitIndex = true → exec (.ldVxK x) s = .next { s with waiting := true }) ∧
    (s.waitKey = true → s.keyDown s.waitIndex = false → ∃ t, exec (.ldVxK x) s = .next t ∧
      (t.reg x).toNat = s.waitIndex.val ∧ (∀ k, k ≠ x → t.reg k = s.reg k) ∧ t.waitKey = false ∧ t.waiting = false ∧
      t.pc = s.pc + 2 ∧ t = { s with pc := t.pc, v := t.v, waitKey := t.waitKey, waiting := t.waiting } ∧ SameMem s t)

/-- Fx0A over time (R247): a step that finds key k down (the lowest), the release of k, and a further step complete the
instruction with the index of k; the first of these steps leaves PC at the instruction. -/
def Obligations.KeyWaitPressRelease : Prop :=
  ∀ (x k : RegIdx) (s : State), s.running = true → s.pc.toNat + 1 ≤ 4095 →
    decode s.variant (fetchWord s) = .ldVxK x → s.waitKey = false → s.keyDown k = true →
    (∀ j, j < k → s.keyDown j = false) →
    (∃ t, runEvents [.step] s = .next t ∧ t.pc = s.pc ∧ t.waiting = true ∧ t.reg x = s.reg x) ∧
    (∃ t, runEvents [.step, .host (.setKey k false), .step] s = .next t ∧ (t.reg x).toNat = k.val ∧
      t.pc = s.pc + 2 ∧ t.waiting = false ∧ t.waitKey = false)

/-! ## Family F (46_family_F.md) -/

/-- LD Vx, DT; LD DT, Vx; LD ST, Vx (R240, R250, R252). -/
def Obligations.TimerTransfers : Prop :=
  ∀ (x : RegIdx) (s : State),
    DecodesTo (packXF 0xF x 0x07) (.ldVxDt x) ∧ DecodesTo (packXF 0xF x 0x15) (.ldDtVx x) ∧
    DecodesTo (packXF 0xF x 0x18) (.ldStVx x) ∧
    (∃ t, exec (.ldVxDt x) s = .next t ∧ t.reg x = s.dt ∧ t.pc = s.pc + 2 ∧ OnlyPcRegs [x] s t) ∧
    (∃ t, exec (.ldDtVx x) s = .next t ∧ t.dt = s.reg x ∧ t.pc = s.pc + 2 ∧ t = { s with pc := t.pc, dt := t.dt } ∧
      SameMem s t) ∧
    (∃ t, exec (.ldStVx x) s = .next t ∧ t.st = s.reg x ∧ t.pc = s.pc + 2 ∧ t = { s with pc := t.pc, st := t.st } ∧
      SameMem s t)

/-- ADD I, Vx (R256; decisions D27, D32 of the spec): the sum modulo 2^16, VF = 1 iff the unreduced sum exceeds 255. -/
def Obligations.AddIndex : Prop :=
  ∀ (x : RegIdx) (s : State), DecodesTo (packXF 0xF x 0x1E) (.addI x) ∧
    ∃ t, exec (.addI x) s = .next t ∧ t.i.toNat = (s.i.toNat + (s.reg x).toNat) % 65536 ∧
      t.reg vfIdx = (if s.i.toNat + (s.reg x).toNat > 255 then 1 else 0) ∧ (∀ k, k ≠ vfIdx → t.reg k = s.reg k) ∧
      t.pc = s.pc + 2 ∧ t = { s with pc := t.pc, v := t.v, i := t.i } ∧ SameMem s t

/-- LD F, Vx and LD HF, Vx (R258, R260): the address of the digit of the low four bits of Vx. -/
def Obligations.FontAddresses : Prop :=
  ∀ (x : RegIdx) (s : State),
    DecodesTo (packXF 0xF x 0x29) (.ldF x) ∧ DecodesTo (packXF 0xF x 0x30) (.ldHf x) ∧
    (∃ t, exec (.ldF x) s = .next t ∧ t.i.toNat = 0x050 + 5 * ((s.reg x).toNat % 16) ∧ t.pc = s.pc + 2 ∧
      t = { s with pc := t.pc, i := t.i } ∧ SameMem s t) ∧
    (∃ t, exec (.ldHf x) s = .next t ∧ t.i.toNat = 0x0A0 + 10 * ((s.reg x).toNat % 16) ∧ t.pc = s.pc + 2 ∧
      t = { s with pc := t.pc, i := t.i } ∧ SameMem s t)

/-- LD B, Vx (R262, R263; the bound is decision D5 of the spec): three digits 0..9 at I, I + 1, I + 2 whose decimal value
is Vx. -/
def Obligations.BcdStore : Prop :=
  ∀ (x : RegIdx) (s : State), s.mem.wf = true → DecodesTo (packXF 0xF x 0x33) (.ldB x) ∧
    (s.i.toNat + 2 ≤ 4095 → ∃ t, exec (.ldB x) s = .next t ∧
      100 * (t.mem.read s.i.toNat).toNat + 10 * (t.mem.read (s.i.toNat + 1)).toNat +
        (t.mem.read (s.i.toNat + 2)).toNat = (s.reg x).toNat ∧
      (∀ k < 3, (t.mem.read (s.i.toNat + k)).toNat ≤ 9) ∧
      SameMemOutside s.i.toNat 3 s t ∧ t.pc = s.pc + 2 ∧ t = { s with pc := t.pc, mem := t.mem }) ∧
    (s.i.toNat + 2 > 4095 → exec (.ldB x) s = .next { s with running := false, faultCause := .memFault })

/-- LD [I], Vx (R264; decisions D5, D35 of the spec). -/
def Obligations.BlockStore : Prop :=
  ∀ (x : RegIdx) (s : State), s.mem.wf = true → DecodesTo (packXF 0xF x 0x55) (.ldMemVx x) ∧
    (s.i.toNat + x.val ≤ 4095 → ∃ t, exec (.ldMemVx x) s = .next t ∧
      (∀ k : RegIdx, k ≤ x → t.mem.read (s.i.toNat + k.val) = s.reg k) ∧
      SameMemOutside s.i.toNat (x.val + 1) s t ∧
      (s.variant = .chip8 → t.i.toNat = s.i.toNat + x.val + 1) ∧ (s.variant = .schip → t.i = s.i) ∧
      t.pc = s.pc + 2 ∧ t = { s with pc := t.pc, mem := t.mem, i := t.i }) ∧
    (s.i.toNat + x.val > 4095 → exec (.ldMemVx x) s = .next { s with running := false, faultCause := .memFault })

/-- LD Vx, [I] (R266; decisions D5, D35 of the spec). -/
def Obligations.BlockLoad : Prop :=
  ∀ (x : RegIdx) (s : State), DecodesTo (packXF 0xF x 0x65) (.ldVxMem x) ∧
    (s.i.toNat + x.val ≤ 4095 → ∃ t, exec (.ldVxMem x) s = .next t ∧
      (∀ k : RegIdx, k ≤ x → t.reg k = s.mem.read (s.i.toNat + k.val)) ∧ (∀ k : RegIdx, x < k → t.reg k = s.reg k) ∧
      (s.variant = .chip8 → t.i.toNat = s.i.toNat + x.val + 1) ∧ (s.variant = .schip → t.i = s.i) ∧
      t.pc = s.pc + 2 ∧ t = { s with pc := t.pc, v := t.v, i := t.i } ∧ SameMem s t) ∧
    (s.i.toNat + x.val > 4095 → exec (.ldVxMem x) s = .next { s with running := false, faultCause := .memFault })

/-- LD R, Vx and LD Vx, R (R268, R270): the first x + 1 registers, the others kept; no memory, no I. -/
def Obligations.FlagRegisterTransfers : Prop :=
  ∀ (x : RegIdx) (s : State),
    DecodesTo (packXF 0xF x 0x75) (.ldRVx x) ∧ DecodesTo (packXF 0xF x 0x85) (.ldVxR x) ∧
    (∃ t, exec (.ldRVx x) s = .next t ∧ (∀ k : RegIdx, k ≤ x → t.r[k.val]? = some (s.reg k)) ∧
      (∀ k : RegIdx, x < k → t.r[k.val]? = s.r[k.val]?) ∧ t.pc = s.pc + 2 ∧ t = { s with pc := t.pc, r := t.r } ∧
      SameMem s t) ∧
    (∃ t, exec (.ldVxR x) s = .next t ∧ (∀ k : RegIdx, k ≤ x → some (t.reg k) = s.r[k.val]?) ∧
      (∀ k : RegIdx, x < k → t.reg k = s.reg k) ∧ t.pc = s.pc + 2 ∧ t = { s with pc := t.pc, v := t.v } ∧ SameMem s t)

/-! ## Memory and the host (20_memory.md, 60_exceptions.md, 70_reset_and_hazards.md) -/

/-- A byte reads back the last value written to it (R65): a block store and then a block load through the same I brings
V0..Vx back, whatever the registers hold in between. -/
def Obligations.BlockStoreThenLoad : Prop :=
  ∀ (x : RegIdx) (s t : State) (v : Vector Byte 16), s.mem.wf = true → s.i.toNat + x.val ≤ 4095 →
    exec (.ldMemVx x) s = .next t →
    ∃ u, exec (.ldVxMem x) { t with v := v, i := s.i } = .next u ∧ ∀ k : RegIdx, k ≤ x → u.reg k = s.reg k

/-- A store is seen by the very next fetch (R75, decision D29 of the spec): an Fx55 that stores V0, V1 over the word
behind it is followed by a step that executes the word V0 ++ V1. -/
def Obligations.StoreSeenByNextFetch : Prop :=
  ∀ (x : RegIdx) (s : State), s.mem.wf = true → s.running = true → s.pc.toNat + 3 ≤ 4095 → 1 ≤ x.val →
    decode s.variant (fetchWord s) = .ldMemVx x → s.i = s.pc + 2 → s.i.toNat + x.val ≤ 4095 →
    ∃ t, step s = .next t ∧ step t = exec (decode s.variant (s.reg 0 ++ s.reg 1)) t

/-- TimerTick, SetKey, SetVariant, ClearChanged (R302, R304, R301, R306; the floor of the timers is decision D22 of the
spec). -/
def Obligations.HostRegisterOperations : Prop :=
  ∀ s : State,
    (∃ t, t = applyHost .timerTick s ∧ t.dt.toNat = s.dt.toNat - 1 ∧ t.st.toNat = s.st.toNat - 1 ∧
      t = { s with dt := t.dt, st := t.st }) ∧
    (∀ (k : RegIdx) (b : Bool), ∃ t, t = applyHost (.setKey k b) s ∧ t.keyDown k = b ∧
      (∀ j, j ≠ k → t.keyDown j = s.keyDown j) ∧ t = { s with key := t.key }) ∧
    (∀ v : Variant, applyHost (.setVariant v) s = { s with variant := v }) ∧
    applyHost .clearChanged s = { s with changed := false }

/-- LoadRom (R305): the bytes verbatim from 0x200, or, above 3584 bytes, a failure that changes nothing. -/
def Obligations.RomLoad : Prop :=
  ∀ (bytes : List Byte) (s : State), s.mem.wf = true →
    (bytes.length ≤ 3584 → ∃ t, hostLoadRom bytes s = some t ∧ applyHost (.loadRom bytes) s = t ∧
      (∀ k, k < bytes.length → some (t.mem.read (0x200 + k)) = bytes[k]?) ∧
      SameMemOutside 0x200 bytes.length s t ∧ t = { s with mem := t.mem }) ∧
    (bytes.length > 3584 → hostLoadRom bytes s = none ∧ applyHost (.loadRom bytes) s = s)

/-- Reset (R331; decisions D23, D25 of the spec): memory below 0x200 and the variant kept, everything else at its reset
value; from every lifecycle state. -/
def Obligations.ResetClears : Prop :=
  ∀ s : State, ∃ t, t = applyHost .reset s ∧
    (∀ a, a < 0x200 → t.mem.read a = s.mem.read a) ∧ (∀ a, 0x200 ≤ a → t.mem.read a = 0) ∧ t.variant = s.variant ∧
    (∀ k, t.reg k = 0) ∧ t.pc = 0x200 ∧ t.i = 0 ∧ t.sp = 0 ∧ (∀ k < 16, t.stack[k]? = some 0) ∧
    (∀ k < 16, t.r[k]? = some 0) ∧ (∀ r c, t.fbLo.pixel r c = false) ∧ (∀ r c, t.fbHi.pixel r c = false) ∧
    t.changed = true ∧ (∀ k, t.keyDown k = false) ∧ t.dt = 0 ∧ t.st = 0 ∧ t.scrollX = 0 ∧ t.scrollY = 0 ∧
    t.highRes = false ∧ t.running = true ∧ t.faultCause = .none ∧ t.waitKey = false ∧ t.waitIndex = 0 ∧
    t.waiting = false

/-- PowerOn (R330; decision D24 of the spec): the fonts at 0x050 and 0x0A0, every other byte 0, and everything that Reset
does to the rest of the state (R331); the variant and the count of draws (notes/assumptions/1.md) are not its to set. -/
def Obligations.PowerOnLoadsFonts : Prop :=
  ∀ (fs : Vector Byte 80) (fb : Vector Byte 160) (s : State), ∃ t, t = applyHost (.powerOn fs fb) s ∧
    (∀ k, k < 80 → some (t.mem.read (0x050 + k)) = fs[k]?) ∧ (∀ k, k < 160 → some (t.mem.read (0x0A0 + k)) = fb[k]?) ∧
    (∀ a, a < 0x050 ∨ 0x140 ≤ a → t.mem.read a = 0) ∧
    t = { applyHost .reset s with mem := t.mem }

/-- The model's state after reset is what PowerOn with the machine's own fonts (free values, notes/assumptions/2.md) leaves
of any state, but for the variant (notes/assumptions/3.md) and the count of draws (notes/assumptions/1.md); what happened
before makes no difference. -/
def Obligations.ResetStateIsPowerOn : Prop :=
  ∀ s : State, applyHost (.powerOn Config.fontSmall Config.fontBig) s =
    { State.reset with variant := s.variant, draws := s.draws }
end

