-- ==== Sys2Proof/Laws/Decode.lean ====
section
/-! SUPPORT. Hexadecimal digits of a word: a word is its four digits, and the fields of the seven formats as digits
(30_encoding.md R91, R92). -/

namespace Sys2Proof

/-- Concatenation as arithmetic: the left part is the high one (00_scope.md R9). -/
theorem toNat_append_add {n m : Nat} (x : BitVec n) (y : BitVec m) : (x ++ y).toNat = x.toNat * 2 ^ m + y.toNat := by
  rw [BitVec.toNat_append, ← Nat.shiftLeft_add_eq_or_of_lt y.isLt, Nat.shiftLeft_eq]

theorem toNat_pack (a b c d : Nibble) :
    (pack a b c d).toNat = a.toNat * 4096 + b.toNat * 256 + c.toNat * 16 + d.toNat := by
  have h : (pack a b c d).toNat = (a ++ b ++ c ++ d).toNat := rfl
  rw [h, toNat_append_add, toNat_append_add, toNat_append_add]
  omega

theorem toNat_nib3 (w : Word) : (nib3 w).toNat = w.toNat / 4096 % 16 := by
  simp [nib3, BitVec.extractLsb'_toNat, Nat.shiftRight_eq_div_pow]

theorem toNat_nib2 (w : Word) : (nib2 w).toNat = w.toNat / 256 % 16 := by
  simp [nib2, BitVec.extractLsb'_toNat, Nat.shiftRight_eq_div_pow]

theorem toNat_nib1 (w : Word) : (nib1 w).toNat = w.toNat / 16 % 16 := by
  simp [nib1, BitVec.extractLsb'_toNat, Nat.shiftRight_eq_div_pow]

theorem toNat_nib0 (w : Word) : (nib0 w).toNat = w.toNat % 16 := by
  simp [nib0, BitVec.extractLsb'_toNat]

@[simp] theorem nib3_pack (a b c d : Nibble) : nib3 (pack a b c d) = a := by
  apply BitVec.eq_of_toNat_eq
  have := a.isLt; have := b.isLt; have := c.isLt; have := d.isLt
  rw [toNat_nib3, toNat_pack]; omega

@[simp] theorem nib2_pack (a b c d : Nibble) : nib2 (pack a b c d) = b := by
  apply BitVec.eq_of_toNat_eq
  have := a.isLt; have := b.isLt; have := c.isLt; have := d.isLt
  rw [toNat_nib2, toNat_pack]; omega

@[simp] theorem nib1_pack (a b c d : Nibble) : nib1 (pack a b c d) = c := by
  apply BitVec.eq_of_toNat_eq
  have := a.isLt; have := b.isLt; have := c.isLt; have := d.isLt
  rw [toNat_nib1, toNat_pack]; omega

@[simp] theorem nib0_pack (a b c d : Nibble) : nib0 (pack a b c d) = d := by
  apply BitVec.eq_of_toNat_eq
  have := a.isLt; have := b.isLt; have := c.isLt; have := d.isLt
  rw [toNat_nib0, toNat_pack]; omega

/-- A word is its four digits. -/
@[simp] theorem pack_nibs (w : Word) : pack (nib3 w) (nib2 w) (nib1 w) (nib0 w) = w := by
  apply BitVec.eq_of_toNat_eq
  have := w.isLt
  rw [toNat_pack, toNat_nib3, toNat_nib2, toNat_nib1, toNat_nib0]; omega

/-- Decoding a word written as digits. -/
@[simp] theorem decode_pack (v : Variant) (a b c d : Nibble) : decode v (pack a b c d) = decodeDigits v a b c d := by
  simp [decode]

/-- Two words are equal when their four digits are. -/
theorem pack_inj {a b c d a' b' c' d' : Nibble} (h : pack a b c d = pack a' b' c' d') :
    a = a' ∧ b = b' ∧ c = c' ∧ d = d' :=
  ⟨by simpa using congrArg nib3 h, by simpa using congrArg nib2 h, by simpa using congrArg nib1 h,
    by simpa using congrArg nib0 h⟩

/-! ### The fields kk and nnn as digits -/

/-- The high and the low digit of kk, and the three digits of nnn. -/
def kkHi (kk : Byte) : Nibble := kk.extractLsb' 4 4
def kkLo (kk : Byte) : Nibble := kk.extractLsb' 0 4
def nnnHi (nnn : Addr12) : Nibble := nnn.extractLsb' 8 4
def nnnMid (nnn : Addr12) : Nibble := nnn.extractLsb' 4 4
def nnnLo (nnn : Addr12) : Nibble := nnn.extractLsb' 0 4

theorem toNat_fieldKk (c d : Nibble) : (fieldKk c d).toNat = c.toNat * 16 + d.toNat := by
  have h : (fieldKk c d).toNat = (c ++ d).toNat := rfl
  rw [h, toNat_append_add]; omega

theorem toNat_fieldNnn (b c d : Nibble) : (fieldNnn b c d).toNat = b.toNat * 256 + c.toNat * 16 + d.toNat := by
  have h : (fieldNnn b c d).toNat = (b ++ c ++ d).toNat := rfl
  rw [h, toNat_append_add, toNat_append_add]; omega

@[simp] theorem fieldKk_digits (kk : Byte) : fieldKk (kkHi kk) (kkLo kk) = kk := by
  apply BitVec.eq_of_toNat_eq
  have := kk.isLt
  rw [toNat_fieldKk]
  simp [kkHi, kkLo, BitVec.extractLsb'_toNat, Nat.shiftRight_eq_div_pow]; omega

@[simp] theorem fieldNnn_digits (nnn : Addr12) : fieldNnn (nnnHi nnn) (nnnMid nnn) (nnnLo nnn) = nnn := by
  apply BitVec.eq_of_toNat_eq
  have := nnn.isLt
  rw [toNat_fieldNnn]
  simp [nnnHi, nnnMid, nnnLo, BitVec.extractLsb'_toNat, Nat.shiftRight_eq_div_pow]; omega

/-- Format A as digits (R92). -/
theorem packA_eq (a : Nibble) (nnn : Addr12) : packA a nnn = pack a (nnnHi nnn) (nnnMid nnn) (nnnLo nnn) := by
  apply BitVec.eq_of_toNat_eq
  have h : (packA a nnn).toNat = (a ++ nnn).toNat := rfl
  have := nnn.isLt
  rw [h, toNat_append_add, toNat_pack]
  simp [nnnHi, nnnMid, nnnLo, BitVec.extractLsb'_toNat, Nat.shiftRight_eq_div_pow]; omega

/-- Formats XK and XF as digits (R92). -/
theorem packXK_eq (a : Nibble) (x : RegIdx) (kk : Byte) :
    packXK a x kk = pack a (digitOf x) (kkHi kk) (kkLo kk) := by
  apply BitVec.eq_of_toNat_eq
  have h : (packXK a x kk).toNat = (a ++ digitOf x ++ kk).toNat := rfl
  have := kk.isLt
  rw [h, toNat_append_add, toNat_append_add, toNat_pack]
  simp [kkHi, kkLo, BitVec.extractLsb'_toNat, Nat.shiftRight_eq_div_pow]; omega

@[simp] theorem digitOf_toFin (b : Nibble) : digitOf b.toFin = b := rfl

@[simp] theorem toFin_digitOf (x : RegIdx) : (digitOf x).toFin = x := rfl

/-- Masking digit by digit. -/
theorem pack_and (a b c d a' b' c' d' : Nibble) :
    pack a b c d &&& pack a' b' c' d' = pack (a &&& a') (b &&& b') (c &&& c') (d &&& d') := by
  have h := pack_nibs (pack a b c d &&& pack a' b' c' d')
  rw [← h]
  have e3 : nib3 (pack a b c d &&& pack a' b' c' d') = nib3 (pack a b c d) &&& nib3 (pack a' b' c' d') :=
    BitVec.extractLsb'_and ..
  have e2 : nib2 (pack a b c d &&& pack a' b' c' d') = nib2 (pack a b c d) &&& nib2 (pack a' b' c' d') :=
    BitVec.extractLsb'_and ..
  have e1 : nib1 (pack a b c d &&& pack a' b' c' d') = nib1 (pack a b c d) &&& nib1 (pack a' b' c' d') :=
    BitVec.extractLsb'_and ..
  have e0 : nib0 (pack a b c d &&& pack a' b' c' d') = nib0 (pack a b c d) &&& nib0 (pack a' b' c' d') :=
    BitVec.extractLsb'_and ..
  rw [e3, e2, e1, e0]
  simp

end Sys2Proof
end

