-- ==== Sys2Proof/Laws/State.lean ====
section
/-! SUPPORT. One lemma per field per update of State, so that no proof unfolds a record update; the register file as
the accessors see it; and the stack operations. -/

namespace Sys2Proof.Machine

/-! ### setPc -/

@[simp] theorem State.setPc_v (s : State) (w : Word) : (s.setPc w).v = s.v := rfl
@[simp] theorem State.setPc_pc (s : State) (w : Word) : (s.setPc w).pc = w := rfl
@[simp] theorem State.setPc_i (s : State) (w : Word) : (s.setPc w).i = s.i := rfl
@[simp] theorem State.setPc_stack (s : State) (w : Word) : (s.setPc w).stack = s.stack := rfl
@[simp] theorem State.setPc_sp (s : State) (w : Word) : (s.setPc w).sp = s.sp := rfl
@[simp] theorem State.setPc_r (s : State) (w : Word) : (s.setPc w).r = s.r := rfl
@[simp] theorem State.setPc_mem (s : State) (w : Word) : (s.setPc w).mem = s.mem := rfl
@[simp] theorem State.setPc_fbLo (s : State) (w : Word) : (s.setPc w).fbLo = s.fbLo := rfl
@[simp] theorem State.setPc_fbHi (s : State) (w : Word) : (s.setPc w).fbHi = s.fbHi := rfl
@[simp] theorem State.setPc_changed (s : State) (w : Word) : (s.setPc w).changed = s.changed := rfl
@[simp] theorem State.setPc_key (s : State) (w : Word) : (s.setPc w).key = s.key := rfl
@[simp] theorem State.setPc_dt (s : State) (w : Word) : (s.setPc w).dt = s.dt := rfl
@[simp] theorem State.setPc_st (s : State) (w : Word) : (s.setPc w).st = s.st := rfl
@[simp] theorem State.setPc_scrollX (s : State) (w : Word) : (s.setPc w).scrollX = s.scrollX := rfl
@[simp] theorem State.setPc_scrollY (s : State) (w : Word) : (s.setPc w).scrollY = s.scrollY := rfl
@[simp] theorem State.setPc_highRes (s : State) (w : Word) : (s.setPc w).highRes = s.highRes := rfl
@[simp] theorem State.setPc_running (s : State) (w : Word) : (s.setPc w).running = s.running := rfl
@[simp] theorem State.setPc_faultCause (s : State) (w : Word) : (s.setPc w).faultCause = s.faultCause := rfl
@[simp] theorem State.setPc_waitKey (s : State) (w : Word) : (s.setPc w).waitKey = s.waitKey := rfl
@[simp] theorem State.setPc_waitIndex (s : State) (w : Word) : (s.setPc w).waitIndex = s.waitIndex := rfl
@[simp] theorem State.setPc_waiting (s : State) (w : Word) : (s.setPc w).waiting = s.waiting := rfl
@[simp] theorem State.setPc_variant (s : State) (w : Word) : (s.setPc w).variant = s.variant := rfl
@[simp] theorem State.setPc_draws (s : State) (w : Word) : (s.setPc w).draws = s.draws := rfl

/-! ### advance -/

@[simp] theorem State.advance_v (s : State) : (s.advance).v = s.v := rfl
@[simp] theorem State.advance_pc (s : State) : (s.advance).pc = s.pc + 2 := rfl
@[simp] theorem State.advance_i (s : State) : (s.advance).i = s.i := rfl
@[simp] theorem State.advance_stack (s : State) : (s.advance).stack = s.stack := rfl
@[simp] theorem State.advance_sp (s : State) : (s.advance).sp = s.sp := rfl
@[simp] theorem State.advance_r (s : State) : (s.advance).r = s.r := rfl
@[simp] theorem State.advance_mem (s : State) : (s.advance).mem = s.mem := rfl
@[simp] theorem State.advance_fbLo (s : State) : (s.advance).fbLo = s.fbLo := rfl
@[simp] theorem State.advance_fbHi (s : State) : (s.advance).fbHi = s.fbHi := rfl
@[simp] theorem State.advance_changed (s : State) : (s.advance).changed = s.changed := rfl
@[simp] theorem State.advance_key (s : State) : (s.advance).key = s.key := rfl
@[simp] theorem State.advance_dt (s : State) : (s.advance).dt = s.dt := rfl
@[simp] theorem State.advance_st (s : State) : (s.advance).st = s.st := rfl
@[simp] theorem State.advance_scrollX (s : State) : (s.advance).scrollX = s.scrollX := rfl
@[simp] theorem State.advance_scrollY (s : State) : (s.advance).scrollY = s.scrollY := rfl
@[simp] theorem State.advance_highRes (s : State) : (s.advance).highRes = s.highRes := rfl
@[simp] theorem State.advance_running (s : State) : (s.advance).running = s.running := rfl
@[simp] theorem State.advance_faultCause (s : State) : (s.advance).faultCause = s.faultCause := rfl
@[simp] theorem State.advance_waitKey (s : State) : (s.advance).waitKey = s.waitKey := rfl
@[simp] theorem State.advance_waitIndex (s : State) : (s.advance).waitIndex = s.waitIndex := rfl
@[simp] theorem State.advance_waiting (s : State) : (s.advance).waiting = s.waiting := rfl
@[simp] theorem State.advance_variant (s : State) : (s.advance).variant = s.variant := rfl
@[simp] theorem State.advance_draws (s : State) : (s.advance).draws = s.draws := rfl

/-! ### skipIf -/

@[simp] theorem State.skipIf_v (s : State) (c : Bool) : (s.skipIf c).v = s.v := by
  cases c <;> rfl
@[simp] theorem State.skipIf_pc (s : State) (c : Bool) : (s.skipIf c).pc = if c then s.pc + 2 + 2 else s.pc + 2 := by
  cases c <;> rfl
@[simp] theorem State.skipIf_i (s : State) (c : Bool) : (s.skipIf c).i = s.i := by
  cases c <;> rfl
@[simp] theorem State.skipIf_stack (s : State) (c : Bool) : (s.skipIf c).stack = s.stack := by
  cases c <;> rfl
@[simp] theorem State.skipIf_sp (s : State) (c : Bool) : (s.skipIf c).sp = s.sp := by
  cases c <;> rfl
@[simp] theorem State.skipIf_r (s : State) (c : Bool) : (s.skipIf c).r = s.r := by
  cases c <;> rfl
@[simp] theorem State.skipIf_mem (s : State) (c : Bool) : (s.skipIf c).mem = s.mem := by
  cases c <;> rfl
@[simp] theorem State.skipIf_fbLo (s : State) (c : Bool) : (s.skipIf c).fbLo = s.fbLo := by
  cases c <;> rfl
@[simp] theorem State.skipIf_fbHi (s : State) (c : Bool) : (s.skipIf c).fbHi = s.fbHi := by
  cases c <;> rfl
@[simp] theorem State.skipIf_changed (s : State) (c : Bool) : (s.skipIf c).changed = s.changed := by
  cases c <;> rfl
@[simp] theorem State.skipIf_key (s : State) (c : Bool) : (s.skipIf c).key = s.key := by
  cases c <;> rfl
@[simp] theorem State.skipIf_dt (s : State) (c : Bool) : (s.skipIf c).dt = s.dt := by
  cases c <;> rfl
@[simp] theorem State.skipIf_st (s : State) (c : Bool) : (s.skipIf c).st = s.st := by
  cases c <;> rfl
@[simp] theorem State.skipIf_scrollX (s : State) (c : Bool) : (s.skipIf c).scrollX = s.scrollX := by
  cases c <;> rfl
@[simp] theorem State.skipIf_scrollY (s : State) (c : Bool) : (s.skipIf c).scrollY = s.scrollY := by
  cases c <;> rfl
@[simp] theorem State.skipIf_highRes (s : State) (c : Bool) : (s.skipIf c).highRes = s.highRes := by
  cases c <;> rfl
@[simp] theorem State.skipIf_running (s : State) (c : Bool) : (s.skipIf c).running = s.running := by
  cases c <;> rfl
@[simp] theorem State.skipIf_faultCause (s : State) (c : Bool) : (s.skipIf c).faultCause = s.faultCause := by
  cases c <;> rfl
@[simp] theorem State.skipIf_waitKey (s : State) (c : Bool) : (s.skipIf c).waitKey = s.waitKey := by
  cases c <;> rfl
@[simp] theorem State.skipIf_waitIndex (s : State) (c : Bool) : (s.skipIf c).waitIndex = s.waitIndex := by
  cases c <;> rfl
@[simp] theorem State.skipIf_waiting (s : State) (c : Bool) : (s.skipIf c).waiting = s.waiting := by
  cases c <;> rfl
@[simp] theorem State.skipIf_variant (s : State) (c : Bool) : (s.skipIf c).variant = s.variant := by
  cases c <;> rfl
@[simp] theorem State.skipIf_draws (s : State) (c : Bool) : (s.skipIf c).draws = s.draws := by
  cases c <;> rfl

/-! ### setReg -/

@[simp] theorem State.setReg_pc (s : State) (x : RegIdx) (b : Byte) : (s.setReg x b).pc = s.pc := rfl
@[simp] theorem State.setReg_i (s : State) (x : RegIdx) (b : Byte) : (s.setReg x b).i = s.i := rfl
@[simp] theorem State.setReg_stack (s : State) (x : RegIdx) (b : Byte) : (s.setReg x b).stack = s.stack := rfl
@[simp] theorem State.setReg_sp (s : State) (x : RegIdx) (b : Byte) : (s.setReg x b).sp = s.sp := rfl
@[simp] theorem State.setReg_r (s : State) (x : RegIdx) (b : Byte) : (s.setReg x b).r = s.r := rfl
@[simp] theorem State.setReg_mem (s : State) (x : RegIdx) (b : Byte) : (s.setReg x b).mem = s.mem := rfl
@[simp] theorem State.setReg_fbLo (s : State) (x : RegIdx) (b : Byte) : (s.setReg x b).fbLo = s.fbLo := rfl
@[simp] theorem State.setReg_fbHi (s : State) (x : RegIdx) (b : Byte) : (s.setReg x b).fbHi = s.fbHi := rfl
@[simp] theorem State.setReg_changed (s : State) (x : RegIdx) (b : Byte) : (s.setReg x b).changed = s.changed := rfl
@[simp] theorem State.setReg_key (s : State) (x : RegIdx) (b : Byte) : (s.setReg x b).key = s.key := rfl
@[simp] theorem State.setReg_dt (s : State) (x : RegIdx) (b : Byte) : (s.setReg x b).dt = s.dt := rfl
@[simp] theorem State.setReg_st (s : State) (x : RegIdx) (b : Byte) : (s.setReg x b).st = s.st := rfl
@[simp] theorem State.setReg_scrollX (s : State) (x : RegIdx) (b : Byte) : (s.setReg x b).scrollX = s.scrollX := rfl
@[simp] theorem State.setReg_scrollY (s : State) (x : RegIdx) (b : Byte) : (s.setReg x b).scrollY = s.scrollY := rfl
@[simp] theorem State.setReg_highRes (s : State) (x : RegIdx) (b : Byte) : (s.setReg x b).highRes = s.highRes := rfl
@[simp] theorem State.setReg_running (s : State) (x : RegIdx) (b : Byte) : (s.setReg x b).running = s.running := rfl
@[simp] theorem State.setReg_faultCause (s : State) (x : RegIdx) (b : Byte) : (s.setReg x b).faultCause = s.faultCause := rfl
@[simp] theorem State.setReg_waitKey (s : State) (x : RegIdx) (b : Byte) : (s.setReg x b).waitKey = s.waitKey := rfl
@[simp] theorem State.setReg_waitIndex (s : State) (x : RegIdx) (b : Byte) : (s.setReg x b).waitIndex = s.waitIndex := rfl
@[simp] theorem State.setReg_waiting (s : State) (x : RegIdx) (b : Byte) : (s.setReg x b).waiting = s.waiting := rfl
@[simp] theorem State.setReg_variant (s : State) (x : RegIdx) (b : Byte) : (s.setReg x b).variant = s.variant := rfl
@[simp] theorem State.setReg_draws (s : State) (x : RegIdx) (b : Byte) : (s.setReg x b).draws = s.draws := rfl

/-! ### setV -/

@[simp] theorem State.setV_v (s : State) (v : Vector Byte 16) : (s.setV v).v = v := rfl
@[simp] theorem State.setV_pc (s : State) (v : Vector Byte 16) : (s.setV v).pc = s.pc := rfl
@[simp] theorem State.setV_i (s : State) (v : Vector Byte 16) : (s.setV v).i = s.i := rfl
@[simp] theorem State.setV_stack (s : State) (v : Vector Byte 16) : (s.setV v).stack = s.stack := rfl
@[simp] theorem State.setV_sp (s : State) (v : Vector Byte 16) : (s.setV v).sp = s.sp := rfl
@[simp] theorem State.setV_r (s : State) (v : Vector Byte 16) : (s.setV v).r = s.r := rfl
@[simp] theorem State.setV_mem (s : State) (v : Vector Byte 16) : (s.setV v).mem = s.mem := rfl
@[simp] theorem State.setV_fbLo (s : State) (v : Vector Byte 16) : (s.setV v).fbLo = s.fbLo := rfl
@[simp] theorem State.setV_fbHi (s : State) (v : Vector Byte 16) : (s.setV v).fbHi = s.fbHi := rfl
@[simp] theorem State.setV_changed (s : State) (v : Vector Byte 16) : (s.setV v).changed = s.changed := rfl
@[simp] theorem State.setV_key (s : State) (v : Vector Byte 16) : (s.setV v).key = s.key := rfl
@[simp] theorem State.setV_dt (s : State) (v : Vector Byte 16) : (s.setV v).dt = s.dt := rfl
@[simp] theorem State.setV_st (s : State) (v : Vector Byte 16) : (s.setV v).st = s.st := rfl
@[simp] theorem State.setV_scrollX (s : State) (v : Vector Byte 16) : (s.setV v).scrollX = s.scrollX := rfl
@[simp] theorem State.setV_scrollY (s : State) (v : Vector Byte 16) : (s.setV v).scrollY = s.scrollY := rfl
@[simp] theorem State.setV_highRes (s : State) (v : Vector Byte 16) : (s.setV v).highRes = s.highRes := rfl
@[simp] theorem State.setV_running (s : State) (v : Vector Byte 16) : (s.setV v).running = s.running := rfl
@[simp] theorem State.setV_faultCause (s : State) (v : Vector Byte 16) : (s.setV v).faultCause = s.faultCause := rfl
@[simp] theorem State.setV_waitKey (s : State) (v : Vector Byte 16) : (s.setV v).waitKey = s.waitKey := rfl
@[simp] theorem State.setV_waitIndex (s : State) (v : Vector Byte 16) : (s.setV v).waitIndex = s.waitIndex := rfl
@[simp] theorem State.setV_waiting (s : State) (v : Vector Byte 16) : (s.setV v).waiting = s.waiting := rfl
@[simp] theorem State.setV_variant (s : State) (v : Vector Byte 16) : (s.setV v).variant = s.variant := rfl
@[simp] theorem State.setV_draws (s : State) (v : Vector Byte 16) : (s.setV v).draws = s.draws := rfl

/-! ### setI -/

@[simp] theorem State.setI_v (s : State) (w : Word) : (s.setI w).v = s.v := rfl
@[simp] theorem State.setI_pc (s : State) (w : Word) : (s.setI w).pc = s.pc := rfl
@[simp] theorem State.setI_i (s : State) (w : Word) : (s.setI w).i = w := rfl
@[simp] theorem State.setI_stack (s : State) (w : Word) : (s.setI w).stack = s.stack := rfl
@[simp] theorem State.setI_sp (s : State) (w : Word) : (s.setI w).sp = s.sp := rfl
@[simp] theorem State.setI_r (s : State) (w : Word) : (s.setI w).r = s.r := rfl
@[simp] theorem State.setI_mem (s : State) (w : Word) : (s.setI w).mem = s.mem := rfl
@[simp] theorem State.setI_fbLo (s : State) (w : Word) : (s.setI w).fbLo = s.fbLo := rfl
@[simp] theorem State.setI_fbHi (s : State) (w : Word) : (s.setI w).fbHi = s.fbHi := rfl
@[simp] theorem State.setI_changed (s : State) (w : Word) : (s.setI w).changed = s.changed := rfl
@[simp] theorem State.setI_key (s : State) (w : Word) : (s.setI w).key = s.key := rfl
@[simp] theorem State.setI_dt (s : State) (w : Word) : (s.setI w).dt = s.dt := rfl
@[simp] theorem State.setI_st (s : State) (w : Word) : (s.setI w).st = s.st := rfl
@[simp] theorem State.setI_scrollX (s : State) (w : Word) : (s.setI w).scrollX = s.scrollX := rfl
@[simp] theorem State.setI_scrollY (s : State) (w : Word) : (s.setI w).scrollY = s.scrollY := rfl
@[simp] theorem State.setI_highRes (s : State) (w : Word) : (s.setI w).highRes = s.highRes := rfl
@[simp] theorem State.setI_running (s : State) (w : Word) : (s.setI w).running = s.running := rfl
@[simp] theorem State.setI_faultCause (s : State) (w : Word) : (s.setI w).faultCause = s.faultCause := rfl
@[simp] theorem State.setI_waitKey (s : State) (w : Word) : (s.setI w).waitKey = s.waitKey := rfl
@[simp] theorem State.setI_waitIndex (s : State) (w : Word) : (s.setI w).waitIndex = s.waitIndex := rfl
@[simp] theorem State.setI_waiting (s : State) (w : Word) : (s.setI w).waiting = s.waiting := rfl
@[simp] theorem State.setI_variant (s : State) (w : Word) : (s.setI w).variant = s.variant := rfl
@[simp] theorem State.setI_draws (s : State) (w : Word) : (s.setI w).draws = s.draws := rfl

/-! ### setMem -/

@[simp] theorem State.setMem_v (s : State) (m : Memory) : (s.setMem m).v = s.v := rfl
@[simp] theorem State.setMem_pc (s : State) (m : Memory) : (s.setMem m).pc = s.pc := rfl
@[simp] theorem State.setMem_i (s : State) (m : Memory) : (s.setMem m).i = s.i := rfl
@[simp] theorem State.setMem_stack (s : State) (m : Memory) : (s.setMem m).stack = s.stack := rfl
@[simp] theorem State.setMem_sp (s : State) (m : Memory) : (s.setMem m).sp = s.sp := rfl
@[simp] theorem State.setMem_r (s : State) (m : Memory) : (s.setMem m).r = s.r := rfl
@[simp] theorem State.setMem_mem (s : State) (m : Memory) : (s.setMem m).mem = m := rfl
@[simp] theorem State.setMem_fbLo (s : State) (m : Memory) : (s.setMem m).fbLo = s.fbLo := rfl
@[simp] theorem State.setMem_fbHi (s : State) (m : Memory) : (s.setMem m).fbHi = s.fbHi := rfl
@[simp] theorem State.setMem_changed (s : State) (m : Memory) : (s.setMem m).changed = s.changed := rfl
@[simp] theorem State.setMem_key (s : State) (m : Memory) : (s.setMem m).key = s.key := rfl
@[simp] theorem State.setMem_dt (s : State) (m : Memory) : (s.setMem m).dt = s.dt := rfl
@[simp] theorem State.setMem_st (s : State) (m : Memory) : (s.setMem m).st = s.st := rfl
@[simp] theorem State.setMem_scrollX (s : State) (m : Memory) : (s.setMem m).scrollX = s.scrollX := rfl
@[simp] theorem State.setMem_scrollY (s : State) (m : Memory) : (s.setMem m).scrollY = s.scrollY := rfl
@[simp] theorem State.setMem_highRes (s : State) (m : Memory) : (s.setMem m).highRes = s.highRes := rfl
@[simp] theorem State.setMem_running (s : State) (m : Memory) : (s.setMem m).running = s.running := rfl
@[simp] theorem State.setMem_faultCause (s : State) (m : Memory) : (s.setMem m).faultCause = s.faultCause := rfl
@[simp] theorem State.setMem_waitKey (s : State) (m : Memory) : (s.setMem m).waitKey = s.waitKey := rfl
@[simp] theorem State.setMem_waitIndex (s : State) (m : Memory) : (s.setMem m).waitIndex = s.waitIndex := rfl
@[simp] theorem State.setMem_waiting (s : State) (m : Memory) : (s.setMem m).waiting = s.waiting := rfl
@[simp] theorem State.setMem_variant (s : State) (m : Memory) : (s.setMem m).variant = s.variant := rfl
@[simp] theorem State.setMem_draws (s : State) (m : Memory) : (s.setMem m).draws = s.draws := rfl

/-! ### setVF -/

@[simp] theorem State.setVF_pc (s : State) (b : Bool) : (s.setVF b).pc = s.pc := rfl
@[simp] theorem State.setVF_i (s : State) (b : Bool) : (s.setVF b).i = s.i := rfl
@[simp] theorem State.setVF_stack (s : State) (b : Bool) : (s.setVF b).stack = s.stack := rfl
@[simp] theorem State.setVF_sp (s : State) (b : Bool) : (s.setVF b).sp = s.sp := rfl
@[simp] theorem State.setVF_r (s : State) (b : Bool) : (s.setVF b).r = s.r := rfl
@[simp] theorem State.setVF_mem (s : State) (b : Bool) : (s.setVF b).mem = s.mem := rfl
@[simp] theorem State.setVF_fbLo (s : State) (b : Bool) : (s.setVF b).fbLo = s.fbLo := rfl
@[simp] theorem State.setVF_fbHi (s : State) (b : Bool) : (s.setVF b).fbHi = s.fbHi := rfl
@[simp] theorem State.setVF_changed (s : State) (b : Bool) : (s.setVF b).changed = s.changed := rfl
@[simp] theorem State.setVF_key (s : State) (b : Bool) : (s.setVF b).key = s.key := rfl
@[simp] theorem State.setVF_dt (s : State) (b : Bool) : (s.setVF b).dt = s.dt := rfl
@[simp] theorem State.setVF_st (s : State) (b : Bool) : (s.setVF b).st = s.st := rfl
@[simp] theorem State.setVF_scrollX (s : State) (b : Bool) : (s.setVF b).scrollX = s.scrollX := rfl
@[simp] theorem State.setVF_scrollY (s : State) (b : Bool) : (s.setVF b).scrollY = s.scrollY := rfl
@[simp] theorem State.setVF_highRes (s : State) (b : Bool) : (s.setVF b).highRes = s.highRes := rfl
@[simp] theorem State.setVF_running (s : State) (b : Bool) : (s.setVF b).running = s.running := rfl
@[simp] theorem State.setVF_faultCause (s : State) (b : Bool) : (s.setVF b).faultCause = s.faultCause := rfl
@[simp] theorem State.setVF_waitKey (s : State) (b : Bool) : (s.setVF b).waitKey = s.waitKey := rfl
@[simp] theorem State.setVF_waitIndex (s : State) (b : Bool) : (s.setVF b).waitIndex = s.waitIndex := rfl
@[simp] theorem State.setVF_waiting (s : State) (b : Bool) : (s.setVF b).waiting = s.waiting := rfl
@[simp] theorem State.setVF_variant (s : State) (b : Bool) : (s.setVF b).variant = s.variant := rfl
@[simp] theorem State.setVF_draws (s : State) (b : Bool) : (s.setVF b).draws = s.draws := rfl

/-! ### setRegFlag -/

@[simp] theorem State.setRegFlag_pc (s : State) (x : RegIdx) (b : Byte) (f : Bool) : (s.setRegFlag x b f).pc = s.pc := rfl
@[simp] theorem State.setRegFlag_i (s : State) (x : RegIdx) (b : Byte) (f : Bool) : (s.setRegFlag x b f).i = s.i := rfl
@[simp] theorem State.setRegFlag_stack (s : State) (x : RegIdx) (b : Byte) (f : Bool) : (s.setRegFlag x b f).stack = s.stack := rfl
@[simp] theorem State.setRegFlag_sp (s : State) (x : RegIdx) (b : Byte) (f : Bool) : (s.setRegFlag x b f).sp = s.sp := rfl
@[simp] theorem State.setRegFlag_r (s : State) (x : RegIdx) (b : Byte) (f : Bool) : (s.setRegFlag x b f).r = s.r := rfl
@[simp] theorem State.setRegFlag_mem (s : State) (x : RegIdx) (b : Byte) (f : Bool) : (s.setRegFlag x b f).mem = s.mem := rfl
@[simp] theorem State.setRegFlag_fbLo (s : State) (x : RegIdx) (b : Byte) (f : Bool) : (s.setRegFlag x b f).fbLo = s.fbLo := rfl
@[simp] theorem State.setRegFlag_fbHi (s : State) (x : RegIdx) (b : Byte) (f : Bool) : (s.setRegFlag x b f).fbHi = s.fbHi := rfl
@[simp] theorem State.setRegFlag_changed (s : State) (x : RegIdx) (b : Byte) (f : Bool) : (s.setRegFlag x b f).changed = s.changed := rfl
@[simp] theorem State.setRegFlag_key (s : State) (x : RegIdx) (b : Byte) (f : Bool) : (s.setRegFlag x b f).key = s.key := rfl
@[simp] theorem State.setRegFlag_dt (s : State) (x : RegIdx) (b : Byte) (f : Bool) : (s.setRegFlag x b f).dt = s.dt := rfl
@[simp] theorem State.setRegFlag_st (s : State) (x : RegIdx) (b : Byte) (f : Bool) : (s.setRegFlag x b f).st = s.st := rfl
@[simp] theorem State.setRegFlag_scrollX (s : State) (x : RegIdx) (b : Byte) (f : Bool) : (s.setRegFlag x b f).scrollX = s.scrollX := rfl
@[simp] theorem State.setRegFlag_scrollY (s : State) (x : RegIdx) (b : Byte) (f : Bool) : (s.setRegFlag x b f).scrollY = s.scrollY := rfl
@[simp] theorem State.setRegFlag_highRes (s : State) (x : RegIdx) (b : Byte) (f : Bool) : (s.setRegFlag x b f).highRes = s.highRes := rfl
@[simp] theorem State.setRegFlag_running (s : State) (x : RegIdx) (b : Byte) (f : Bool) : (s.setRegFlag x b f).running = s.running := rfl
@[simp] theorem State.setRegFlag_faultCause (s : State) (x : RegIdx) (b : Byte) (f : Bool) : (s.setRegFlag x b f).faultCause = s.faultCause := rfl
@[simp] theorem State.setRegFlag_waitKey (s : State) (x : RegIdx) (b : Byte) (f : Bool) : (s.setRegFlag x b f).waitKey = s.waitKey := rfl
@[simp] theorem State.setRegFlag_waitIndex (s : State) (x : RegIdx) (b : Byte) (f : Bool) : (s.setRegFlag x b f).waitIndex = s.waitIndex := rfl
@[simp] theorem State.setRegFlag_waiting (s : State) (x : RegIdx) (b : Byte) (f : Bool) : (s.setRegFlag x b f).waiting = s.waiting := rfl
@[simp] theorem State.setRegFlag_variant (s : State) (x : RegIdx) (b : Byte) (f : Bool) : (s.setRegFlag x b f).variant = s.variant := rfl
@[simp] theorem State.setRegFlag_draws (s : State) (x : RegIdx) (b : Byte) (f : Bool) : (s.setRegFlag x b f).draws = s.draws := rfl

/-! ### clearVFIfChip8 -/

@[simp] theorem State.clearVFIfChip8_pc (s : State) : (s.clearVFIfChip8).pc = s.pc := by
  unfold State.clearVFIfChip8
  split <;> rfl
@[simp] theorem State.clearVFIfChip8_i (s : State) : (s.clearVFIfChip8).i = s.i := by
  unfold State.clearVFIfChip8
  split <;> rfl
@[simp] theorem State.clearVFIfChip8_stack (s : State) : (s.clearVFIfChip8).stack = s.stack := by
  unfold State.clearVFIfChip8
  split <;> rfl
@[simp] theorem State.clearVFIfChip8_sp (s : State) : (s.clearVFIfChip8).sp = s.sp := by
  unfold State.clearVFIfChip8
  split <;> rfl
@[simp] theorem State.clearVFIfChip8_r (s : State) : (s.clearVFIfChip8).r = s.r := by
  unfold State.clearVFIfChip8
  split <;> rfl
@[simp] theorem State.clearVFIfChip8_mem (s : State) : (s.clearVFIfChip8).mem = s.mem := by
  unfold State.clearVFIfChip8
  split <;> rfl
@[simp] theorem State.clearVFIfChip8_fbLo (s : State) : (s.clearVFIfChip8).fbLo = s.fbLo := by
  unfold State.clearVFIfChip8
  split <;> rfl
@[simp] theorem State.clearVFIfChip8_fbHi (s : State) : (s.clearVFIfChip8).fbHi = s.fbHi := by
  unfold State.clearVFIfChip8
  split <;> rfl
@[simp] theorem State.clearVFIfChip8_changed (s : State) : (s.clearVFIfChip8).changed = s.changed := by
  unfold State.clearVFIfChip8
  split <;> rfl
@[simp] theorem State.clearVFIfChip8_key (s : State) : (s.clearVFIfChip8).key = s.key := by
  unfold State.clearVFIfChip8
  split <;> rfl
@[simp] theorem State.clearVFIfChip8_dt (s : State) : (s.clearVFIfChip8).dt = s.dt := by
  unfold State.clearVFIfChip8
  split <;> rfl
@[simp] theorem State.clearVFIfChip8_st (s : State) : (s.clearVFIfChip8).st = s.st := by
  unfold State.clearVFIfChip8
  split <;> rfl
@[simp] theorem State.clearVFIfChip8_scrollX (s : State) : (s.clearVFIfChip8).scrollX = s.scrollX := by
  unfold State.clearVFIfChip8
  split <;> rfl
@[simp] theorem State.clearVFIfChip8_scrollY (s : State) : (s.clearVFIfChip8).scrollY = s.scrollY := by
  unfold State.clearVFIfChip8
  split <;> rfl
@[simp] theorem State.clearVFIfChip8_highRes (s : State) : (s.clearVFIfChip8).highRes = s.highRes := by
  unfold State.clearVFIfChip8
  split <;> rfl
@[simp] theorem State.clearVFIfChip8_running (s : State) : (s.clearVFIfChip8).running = s.running := by
  unfold State.clearVFIfChip8
  split <;> rfl
@[simp] theorem State.clearVFIfChip8_faultCause (s : State) : (s.clearVFIfChip8).faultCause = s.faultCause := by
  unfold State.clearVFIfChip8
  split <;> rfl
@[simp] theorem State.clearVFIfChip8_waitKey (s : State) : (s.clearVFIfChip8).waitKey = s.waitKey := by
  unfold State.clearVFIfChip8
  split <;> rfl
@[simp] theorem State.clearVFIfChip8_waitIndex (s : State) : (s.clearVFIfChip8).waitIndex = s.waitIndex := by
  unfold State.clearVFIfChip8
  split <;> rfl
@[simp] theorem State.clearVFIfChip8_waiting (s : State) : (s.clearVFIfChip8).waiting = s.waiting := by
  unfold State.clearVFIfChip8
  split <;> rfl
@[simp] theorem State.clearVFIfChip8_variant (s : State) : (s.clearVFIfChip8).variant = s.variant := by
  unfold State.clearVFIfChip8
  split <;> rfl
@[simp] theorem State.clearVFIfChip8_draws (s : State) : (s.clearVFIfChip8).draws = s.draws := by
  unfold State.clearVFIfChip8
  split <;> rfl

/-! ### raise -/

@[simp] theorem State.raise_v (s : State) (c : FaultCause) : (s.raise c).v = s.v := rfl
@[simp] theorem State.raise_pc (s : State) (c : FaultCause) : (s.raise c).pc = s.pc := rfl
@[simp] theorem State.raise_i (s : State) (c : FaultCause) : (s.raise c).i = s.i := rfl
@[simp] theorem State.raise_stack (s : State) (c : FaultCause) : (s.raise c).stack = s.stack := rfl
@[simp] theorem State.raise_sp (s : State) (c : FaultCause) : (s.raise c).sp = s.sp := rfl
@[simp] theorem State.raise_r (s : State) (c : FaultCause) : (s.raise c).r = s.r := rfl
@[simp] theorem State.raise_mem (s : State) (c : FaultCause) : (s.raise c).mem = s.mem := rfl
@[simp] theorem State.raise_fbLo (s : State) (c : FaultCause) : (s.raise c).fbLo = s.fbLo := rfl
@[simp] theorem State.raise_fbHi (s : State) (c : FaultCause) : (s.raise c).fbHi = s.fbHi := rfl
@[simp] theorem State.raise_changed (s : State) (c : FaultCause) : (s.raise c).changed = s.changed := rfl
@[simp] theorem State.raise_key (s : State) (c : FaultCause) : (s.raise c).key = s.key := rfl
@[simp] theorem State.raise_dt (s : State) (c : FaultCause) : (s.raise c).dt = s.dt := rfl
@[simp] theorem State.raise_st (s : State) (c : FaultCause) : (s.raise c).st = s.st := rfl
@[simp] theorem State.raise_scrollX (s : State) (c : FaultCause) : (s.raise c).scrollX = s.scrollX := rfl
@[simp] theorem State.raise_scrollY (s : State) (c : FaultCause) : (s.raise c).scrollY = s.scrollY := rfl
@[simp] theorem State.raise_highRes (s : State) (c : FaultCause) : (s.raise c).highRes = s.highRes := rfl
@[simp] theorem State.raise_running (s : State) (c : FaultCause) : (s.raise c).running = false := rfl
@[simp] theorem State.raise_faultCause (s : State) (c : FaultCause) : (s.raise c).faultCause = c := rfl
@[simp] theorem State.raise_waitKey (s : State) (c : FaultCause) : (s.raise c).waitKey = s.waitKey := rfl
@[simp] theorem State.raise_waitIndex (s : State) (c : FaultCause) : (s.raise c).waitIndex = s.waitIndex := rfl
@[simp] theorem State.raise_waiting (s : State) (c : FaultCause) : (s.raise c).waiting = s.waiting := rfl
@[simp] theorem State.raise_variant (s : State) (c : FaultCause) : (s.raise c).variant = s.variant := rfl
@[simp] theorem State.raise_draws (s : State) (c : FaultCause) : (s.raise c).draws = s.draws := rfl

/-! ### Registers through their accessors -/

theorem State.reg_eq_of_v {s t : State} (h : t.v = s.v) (k : RegIdx) : t.reg k = s.reg k := by
  simp [State.reg, h]

@[simp] theorem State.setPc_reg (s : State) (w : Word) (k : RegIdx) : (s.setPc w).reg k = s.reg k := rfl
@[simp] theorem State.advance_reg (s : State) (k : RegIdx) : s.advance.reg k = s.reg k := rfl
@[simp] theorem State.skipIf_reg (s : State) (c : Bool) (k : RegIdx) : (s.skipIf c).reg k = s.reg k := by
  cases c <;> rfl
@[simp] theorem State.setI_reg (s : State) (w : Word) (k : RegIdx) : (s.setI w).reg k = s.reg k := rfl
@[simp] theorem State.setMem_reg (s : State) (m : Memory) (k : RegIdx) : (s.setMem m).reg k = s.reg k := rfl
@[simp] theorem State.raise_reg (s : State) (c : FaultCause) (k : RegIdx) : (s.raise c).reg k = s.reg k := rfl

/-- Everything a register write can do to the registers. -/
theorem State.reg_setReg (s : State) (x k : RegIdx) (b : Byte) :
    (s.setReg x b).reg k = if k = x then b else s.reg k := by
  simp only [State.reg, State.setReg, Vector.getElem_set, Fin.ext_iff, eq_comm]

@[simp] theorem State.reg_setReg_self (s : State) (x : RegIdx) (b : Byte) : (s.setReg x b).reg x = b := by
  simp [State.reg_setReg]

@[simp] theorem State.reg_setReg_of_ne (s : State) {x k : RegIdx} (b : Byte) (h : k ≠ x) :
    (s.setReg x b).reg k = s.reg k := by
  simp [State.reg_setReg, h]

/-- Everything a flag write can do to the registers (10_state.md R21). -/
theorem State.reg_setVF (s : State) (f : Bool) (k : RegIdx) :
    (s.setVF f).reg k = if k = vfIdx then flagByte f else s.reg k := State.reg_setReg ..

/-- Result first, flag last (42_load_alu.md R160). -/
theorem State.reg_setRegFlag (s : State) (x k : RegIdx) (b : Byte) (f : Bool) :
    (s.setRegFlag x b f).reg k = if k = vfIdx then flagByte f else if k = x then b else s.reg k := by
  simp only [State.setRegFlag, State.reg_setVF, State.reg_setReg]

/-- VF after a logic instruction: cleared under CHIP8, kept under SCHIP (42_load_alu.md R166). -/
theorem State.reg_clearVFIfChip8 (s : State) (k : RegIdx) :
    s.clearVFIfChip8.reg k = if s.variant = .chip8 ∧ k = vfIdx then 0 else s.reg k := by
  unfold State.clearVFIfChip8
  cases h : s.variant <;> simp [State.reg_setVF, flagByte]

/-- Two register files that read the same are the same. -/
theorem State.v_ext {s t : State} (h : ∀ k, t.reg k = s.reg k) : t.v = s.v := by
  refine Vector.ext fun k hk => ?_
  exact h ⟨k, hk⟩

/-- An element of a block copy (46_family_F.md R266). -/
theorem getElem_copyPrefix (f : Nat → Byte) (n : Nat) (dst : Vector Byte 16) (k : Nat) (hk : k < 16) :
    (copyPrefix f n dst)[k] = if k < n then f k else dst[k] := by
  induction n with
  | zero => simp [copyPrefix]
  | succ n ih =>
    simp only [copyPrefix, Vector.getElem_setIfInBounds, ih]
    split_ifs <;> first | omega | simp_all

/-! ### The stack (10_state.md R25) -/

/-- Everything a push can answer. -/
theorem State.push_cases (s : State) (w : Word) :
    (s.sp.val = 16 ∧ s.push w = none) ∨
    (s.sp.val < 16 ∧ ∃ t, s.push w = some t ∧ t.sp.val = s.sp.val + 1 ∧
      t = { s with stack := t.stack, sp := t.sp } ∧
      ∀ k (hk : k < 16), t.stack[k] = if k = s.sp.val then w else s.stack[k]) := by
  have hsp := s.sp.isLt
  unfold State.push
  split
  · rename_i h
    refine .inr ⟨h, _, rfl, rfl, rfl, fun k hk => ?_⟩
    simp only [Vector.getElem_set, eq_comm]
  · rename_i h
    exact .inl ⟨by simp only [Config.stackDepth] at h; omega, rfl⟩

/-- Everything a pop can answer. -/
theorem State.pop_cases (s : State) :
    (s.sp.val = 0 ∧ s.pop = none) ∨
    (0 < s.sp.val ∧ ∃ w t, s.pop = some (w, t) ∧ s.stack[s.sp.val - 1]? = some w ∧ t.sp.val = s.sp.val - 1 ∧
      t = { s with sp := t.sp }) := by
  have hsp := s.sp.isLt
  unfold State.pop
  split
  · rename_i h
    refine .inr ⟨h, _, _, rfl, ?_, rfl, rfl⟩
    rw [Vector.getElem?_eq_getElem]
  · rename_i h
    exact .inl ⟨by omega, rfl⟩

/-! ### The bounds (20_memory.md R66, R70) -/

theorem accessOk_iff (i : Word) (len : Nat) : accessOk i len = true ↔ len = 0 ∨ i.toNat + len - 1 ≤ 4095 := by
  simp [accessOk]

theorem fetchOk_iff (pc : Word) : fetchOk pc = true ↔ pc.toNat + 1 ≤ 4095 := by
  simp [fetchOk]

end Sys2Proof.Machine
end

