-- ==== Sys2Proof/Laws/Draw.lean ====
section
/-! SUPPORT. What the plane operations and the draw can do: one pixel toggled, one pixel XORed, and the state a draw
leaves (44_draw.md). -/

namespace Sys2Proof.Machine

@[simp] theorem Plane.pixel_clear (w h r c : Nat) : (Plane.clear w h).pixel r c = false := by
  unfold Plane.pixel Plane.row Plane.clear
  by_cases hr : r < h <;> simp [hr]

/-- Toggling a pixel of the plane changes that pixel and no other. -/
theorem Plane.pixel_toggle {w h : Nat} (p : Plane w h) {r c : Nat} (hr : r < h) (hc : c < w) (r' c' : Nat) :
    (p.toggle r c).pixel r' c' = (p.pixel r' c' ^^ decide (r' = r ∧ c' = c)) := by
  unfold Plane.pixel Plane.toggle Plane.row
  by_cases hrr : r = r'
  · subst hrr
    simp only [Vector.getElem?_setIfInBounds, hr, if_true, Option.getD_some, BitVec.getLsbD_xor, BitVec.getLsbD_twoPow,
      hc, true_and, decide_true, Bool.true_and, eq_comm]
  · have hrr' : r' ≠ r := fun h => hrr h.symm
    simp [hrr, hrr']

/-- The state a draw leaves, the low plane being the target: the plane, VF and changed, nothing else (R200, R205). -/
theorem drawInto_lo (ts : List (Nat × Nat)) (s : State) :
    drawInto false ts s = { s with
      fbLo := (xorPixels s.fbLo ts).plane, changed := s.changed || (xorPixels s.fbLo ts).toggled,
      v := s.v.set 15 (flagByte (xorPixels s.fbLo ts).coll) } := rfl

/-- The same with the high plane as the target. -/
theorem drawInto_hi (ts : List (Nat × Nat)) (s : State) :
    drawInto true ts s = { s with
      fbHi := (xorPixels s.fbHi ts).plane, changed := s.changed || (xorPixels s.fbHi ts).toggled,
      v := s.v.set 15 (flagByte (xorPixels s.fbHi ts).coll) } := rfl

@[simp] theorem xorPixels_nil {w h : Nat} (p : Plane w h) : xorPixels p [] = ⟨p, false, false⟩ := rfl

/-- A target list as a membership: the set bits of the sprite that are placed somewhere. -/
theorem mem_spriteTargets {bit : Nat → Nat → Bool} {place : Nat → Nat → Option (Nat × Nat)} {rows cols : Nat}
    {t : Nat × Nat} :
    t ∈ spriteTargets bit place rows cols ↔ ∃ r < rows, ∃ c < cols, bit r c = true ∧ place r c = some t := by
  simp only [spriteTargets, List.mem_flatMap, List.mem_range, List.mem_filterMap]
  constructor
  · rintro ⟨r, hr, c, hc, h⟩
    split at h
    · exact ⟨r, hr, c, hc, by assumption, h⟩
    · cases h
  · rintro ⟨r, hr, c, hc, hb, h⟩
    exact ⟨r, hr, c, hc, by simp [hb, h]⟩

end Sys2Proof.Machine
end

