-- ==== Sys2Proof/Laws/Memory.lean ====
section
/-! SUPPORT. What memory's operations can do: read after write, the canonical form kept by every one of them, and that
canonical memories which read the same are the same data. -/

namespace Sys2Proof.Machine

/-! ### The power-on content (70_reset_and_hazards.md R330) -/

/-- At and above the program area memory starts as 0. -/
theorem powerOnByte_of_rom {a : Nat} (h : Config.romBase ≤ a) : powerOnByte a = 0 := by
  unfold powerOnByte
  simp only [Config.romBase, Config.fontSmallBase, Config.fontBigBase, Config.fontEnd] at *
  split_ifs <;> first | omega | rfl

theorem Memory.read_nil (a : Nat) : Memory.read [] a = powerOnByte a := rfl

theorem Memory.read_cons (k : Nat) (b : Byte) (m : Memory) (a : Nat) :
    Memory.read ((k, b) :: m) a = if k = a then b else Memory.read m a := rfl

/-! ### The canonical form -/

theorem Memory.wfFrom_cons {lo k : Nat} {b : Byte} {m : Memory} :
    Memory.wfFrom lo ((k, b) :: m) = true ↔
      lo ≤ k ∧ k < 4096 ∧ b ≠ powerOnByte k ∧ Memory.wfFrom (k + 1) m = true := by
  simp [Memory.wfFrom, Config.memSize, and_assoc]

/-- A memory in canonical form from `lo` is in canonical form from every lower address. -/
theorem Memory.wfFrom_mono {lo lo' : Nat} (h : lo' ≤ lo) {m : Memory} (hm : Memory.wfFrom lo m = true) :
    Memory.wfFrom lo' m = true := by
  cases m with
  | nil => rfl
  | cons c m =>
    obtain ⟨k, b⟩ := c
    rw [Memory.wfFrom_cons] at hm ⊢
    exact ⟨by omega, hm.2⟩

/-- Below its first cell a canonical memory reads as at power-on. -/
theorem Memory.read_of_lt {lo a : Nat} {m : Memory} (hm : Memory.wfFrom lo m = true) (ha : a < lo) :
    Memory.read m a = powerOnByte a := by
  induction m generalizing lo with
  | nil => rfl
  | cons c m ih =>
    obtain ⟨k, b⟩ := c
    rw [Memory.wfFrom_cons] at hm
    rw [Memory.read_cons, if_neg (by omega)]
    exact ih hm.2.2.2 (by omega)

/-- Above memory every address reads as at power-on, hence as 0. -/
theorem Memory.read_of_ge {lo a : Nat} {m : Memory} (hm : Memory.wfFrom lo m = true) (ha : 4096 ≤ a) :
    Memory.read m a = powerOnByte a := by
  induction m generalizing lo with
  | nil => rfl
  | cons c m ih =>
    obtain ⟨k, b⟩ := c
    rw [Memory.wfFrom_cons] at hm
    rw [Memory.read_cons, if_neg (by omega)]
    exact ih hm.2.2.2

/-! ### Insert and write -/

theorem Memory.wfFrom_insert {lo : Nat} {m : Memory} (hm : Memory.wfFrom lo m = true) {a : Nat} (hlo : lo ≤ a)
    (ha : a < 4096) (b : Byte) : Memory.wfFrom lo (Memory.insert m a b) = true := by
  induction m generalizing lo with
  | nil =>
    unfold Memory.insert
    split
    · rfl
    · rename_i hb
      exact Memory.wfFrom_cons.2 ⟨hlo, ha, hb, rfl⟩
  | cons c m ih =>
    obtain ⟨k, e⟩ := c
    have hk := Memory.wfFrom_cons.1 hm
    unfold Memory.insert
    split
    · split
      · exact hm
      · rename_i h1 hb
        exact Memory.wfFrom_cons.2 ⟨hlo, ha, hb, Memory.wfFrom_cons.2 ⟨by omega, hk.2⟩⟩
    · split
      · split
        · exact Memory.wfFrom_mono (by omega) hk.2.2.2
        · rename_i h1 h2 hb
          exact Memory.wfFrom_cons.2 ⟨hlo, ha, hb, h2 ▸ hk.2.2.2⟩
      · rename_i h1 h2
        exact Memory.wfFrom_cons.2 ⟨hk.1, hk.2.1, hk.2.2.1, ih hk.2.2.2 (by omega)⟩

theorem Memory.read_insert {lo : Nat} {m : Memory} (hm : Memory.wfFrom lo m = true) (a : Nat) (b : Byte) (c : Nat) :
    Memory.read (Memory.insert m a b) c = if c = a then b else Memory.read m c := by
  induction m generalizing lo with
  | nil =>
    unfold Memory.insert
    by_cases hca : c = a
    · subst hca
      split <;> simp_all [Memory.read_nil, Memory.read_cons]
    · have hac : a ≠ c := fun h => hca h.symm
      split <;> simp [Memory.read_nil, Memory.read_cons, hac]
  | cons e m ih =>
    obtain ⟨k, d⟩ := e
    have hk := Memory.wfFrom_cons.1 hm
    have hlow := fun h => Memory.read_of_lt hk.2.2.2 (a := a) h
    unfold Memory.insert
    by_cases hca : c = a
    · subst hca
      rw [if_pos rfl]
      split
      · split
        · rename_i h1 hb
          rw [Memory.read_cons, if_neg (by omega), hlow (by omega), hb]
        · rw [Memory.read_cons, if_pos rfl]
      · split
        · split
          · rename_i h1 h2 hb
            rw [hlow (by omega), hb]
          · rw [Memory.read_cons, if_pos rfl]
        · rw [Memory.read_cons, if_neg (by omega), ih hk.2.2.2, if_pos rfl]
    · have hac : a ≠ c := fun h => hca h.symm
      rw [if_neg hca]
      split
      · split <;> simp only [Memory.read_cons, hac, if_false]
      · split
        · rename_i h1 h2
          have hkc : k ≠ c := h2 ▸ hac
          split <;> simp only [Memory.read_cons, hac, hkc, if_false]
        · simp only [Memory.read_cons, ih hk.2.2.2, hca, if_false]

/-- A byte reads back the value written, every other byte reads as before (20_memory.md R65). -/
theorem Memory.read_write {m : Memory} (hm : m.wf = true) {a : Nat} (ha : a < 4096) (b : Byte) (c : Nat) :
    (m.write a b).read c = if c = a then b else m.read c := by
  rw [Memory.write, if_pos ha]
  exact Memory.read_insert hm a b c

theorem Memory.wf_write {m : Memory} (hm : m.wf = true) (a : Nat) (b : Byte) : (m.write a b).wf = true := by
  unfold Memory.write
  split
  · rename_i h
    exact Memory.wfFrom_insert hm (Nat.zero_le a) h b
  · exact hm

theorem Memory.wf_writeBytes {m : Memory} (hm : m.wf = true) (a : Nat) (bs : List Byte) :
    (m.writeBytes a bs).wf = true := by
  induction bs generalizing m a with
  | nil => exact hm
  | cons b bs ih => exact ih (Memory.wf_write hm a b) (a + 1)

/-- Everything a store of bytes can do: the k-th byte at a + k, every other byte as before. -/
theorem Memory.read_writeBytes {m : Memory} (hm : m.wf = true) (a : Nat) (bs : List Byte) (ha : a + bs.length ≤ 4096)
    (c : Nat) : (m.writeBytes a bs).read c = if a ≤ c ∧ c < a + bs.length then bs[c - a]?.getD 0 else m.read c := by
  induction bs generalizing m a with
  | nil => simp only [Memory.writeBytes, List.length_nil]; rw [if_neg (by omega)]
  | cons b bs ih =>
    simp only [List.length_cons] at ha ⊢
    rw [Memory.writeBytes, ih (Memory.wf_write hm a b) (a + 1) (by omega), Memory.read_write hm (by omega)]
    by_cases hca : c = a
    · subst hca
      rw [if_neg (by omega), if_pos rfl, if_pos ⟨le_refl _, by omega⟩]
      simp
    · by_cases hin : a + 1 ≤ c ∧ c < a + 1 + bs.length
      · rw [if_pos hin, if_pos (by omega)]
        obtain ⟨d, rfl⟩ : ∃ d, c = a + 1 + d := ⟨c - (a + 1), by omega⟩
        rw [show a + 1 + d - (a + 1) = d by omega, show a + 1 + d - a = d + 1 by omega]
        simp
      · rw [if_neg hin, if_neg hca, if_neg (by omega)]

/-! ### Reset's clearing of the program area (70_reset_and_hazards.md R331) -/

theorem Memory.wfFrom_clearRom {lo : Nat} {m : Memory} (hm : Memory.wfFrom lo m = true) :
    Memory.wfFrom lo m.clearRom = true := by
  induction m generalizing lo with
  | nil => rfl
  | cons c m ih =>
    obtain ⟨k, b⟩ := c
    have hk := Memory.wfFrom_cons.1 hm
    unfold Memory.clearRom at ih ⊢
    rw [List.filter_cons]
    split
    · exact Memory.wfFrom_cons.2 ⟨hk.1, hk.2.1, hk.2.2.1, ih hk.2.2.2⟩
    · exact Memory.wfFrom_mono (by omega) (ih hk.2.2.2)

theorem Memory.read_clearRom (m : Memory) (a : Nat) :
    m.clearRom.read a = if a < 0x200 then m.read a else 0 := by
  induction m with
  | nil =>
    split
    · rfl
    · rename_i h
      exact powerOnByte_of_rom (by simp only [Config.romBase]; omega)
  | cons c m ih =>
    obtain ⟨k, b⟩ := c
    unfold Memory.clearRom at ih ⊢
    rw [List.filter_cons]
    by_cases hk : k < 0x200
    · rw [if_pos (by simpa [Config.romBase] using hk), Memory.read_cons, Memory.read_cons, ih]
      split_ifs <;> first | rfl | omega
    · rw [if_neg (by simpa [Config.romBase] using hk), ih, Memory.read_cons]
      split_ifs <;> first | rfl | omega

/-! ### Equal reads, equal data -/

theorem Memory.ext_of_read {lo : Nat} {m m' : Memory} (hm : Memory.wfFrom lo m = true)
    (hm' : Memory.wfFrom lo m' = true) (h : ∀ a, m.read a = m'.read a) : m = m' := by
  induction m generalizing lo m' with
  | nil =>
    cases m' with
    | nil => rfl
    | cons c m' =>
      obtain ⟨k, b⟩ := c
      have hk := Memory.wfFrom_cons.1 hm'
      have := h k
      simp only [Memory.read_cons, if_true] at this
      exact absurd this.symm hk.2.2.1
  | cons c m ih =>
    obtain ⟨k, b⟩ := c
    have hk := Memory.wfFrom_cons.1 hm
    cases m' with
    | nil =>
      have := h k
      simp only [Memory.read_cons, if_true] at this
      exact absurd this hk.2.2.1
    | cons c' m' =>
      obtain ⟨k', b'⟩ := c'
      have hk' := Memory.wfFrom_cons.1 hm'
      rcases Nat.lt_trichotomy k k' with hlt | heq | hgt
      · have h1 := h k
        rw [Memory.read_of_lt (lo := k') (m := (k', b') :: m') (Memory.wfFrom_cons.2 ⟨le_refl _, hk'.2⟩) hlt] at h1
        simp only [Memory.read_cons, if_true] at h1
        exact absurd h1 hk.2.2.1
      · subst heq
        have hb := h k
        simp only [Memory.read_cons, if_true] at hb
        subst hb
        congr 1
        refine ih hk.2.2.2 hk'.2.2.2 fun a => ?_
        have := h a
        simp only [Memory.read_cons] at this
        by_cases hka : k = a
        · subst hka
          rw [Memory.read_of_lt hk.2.2.2 (by omega), Memory.read_of_lt hk'.2.2.2 (by omega)]
        · simpa [hka] using this
      · have h1 := h k'
        rw [Memory.read_of_lt (lo := k) (m := (k, b) :: m) (Memory.wfFrom_cons.2 ⟨le_refl _, hk.2⟩) hgt] at h1
        simp only [Memory.read_cons, if_true] at h1
        exact absurd h1.symm hk'.2.2.1

end Sys2Proof.Machine
end

