-- ==== Sys2Proof/Laws/Operands.lean ====
section
/-! SUPPORT. What each operand form is as a number (30_encoding.md R93; 43_index_jump_random.md R192; 45_keys.md R232;
46_family_F.md R258 to R266), and which key the scan of Fx0A finds. -/

namespace Sys2Proof.Machine

theorem addrOf_toNat (nnn : Addr12) : (addrOf nnn).toNat = nnn.toNat := by
  have := nnn.isLt
  simp [addrOf]
  omega

theorem wordOf_toNat (b : Byte) : (wordOf b).toNat = b.toNat := by
  have := b.isLt
  simp [wordOf]
  omega

theorem byteOfIdx_toNat (k : Fin 16) : (byteOfIdx k).toNat = k.val := by
  have := k.isLt
  simp [byteOfIdx]
  omega

theorem lowNibble_val (b : Byte) : (lowNibble b).val = b.toNat % 16 := by
  simp [lowNibble]

theorem smallDigitAddr_toNat (d : Fin 16) : (smallDigitAddr d).toNat = 0x050 + 5 * d.val := by
  have := d.isLt
  simp [smallDigitAddr]
  omega

theorem bigDigitAddr_toNat (d : Fin 16) : (bigDigitAddr d).toNat = 0x0A0 + 10 * d.val := by
  have := d.isLt
  simp [bigDigitAddr]
  omega

theorem shiftSource_chip8 {s : State} (h : s.variant = .chip8) (x y : RegIdx) : shiftSource s x y = s.reg y := by
  simp [shiftSource, h]

theorem shiftSource_schip {s : State} (h : s.variant = .schip) (x y : RegIdx) : shiftSource s x y = s.reg x := by
  simp [shiftSource, h]

theorem jumpOffset_chip8 {s : State} (h : s.variant = .chip8) (nnn : Addr12) : jumpOffset s nnn = s.reg 0 := by
  simp [jumpOffset, h]

/-- Under SCHIP the register is the one of the top digit of nnn. -/
theorem jumpOffset_schip {s : State} (h : s.variant = .schip) {nnn : Addr12} {x : RegIdx} (hx : x.val = nnn.toNat / 256) :
    jumpOffset s nnn = s.reg x := by
  have hd : (nnn.extractLsb' 8 4).toFin = x := by
    apply Fin.ext
    have := nnn.isLt
    change (nnn.extractLsb' 8 4).toNat = _
    rw [BitVec.extractLsb'_toNat, hx, Nat.shiftRight_eq_div_pow]
    omega
  simp only [jumpOffset, h, hd]

@[simp] theorem bcd_length (b : Byte) : (bcd b).length = 3 := rfl

@[simp] theorem regBlock_length (s : State) (x : RegIdx) : (regBlock s x).length = x.val + 1 := by
  simp [regBlock]

theorem regBlock_getElem (s : State) {x k : RegIdx} (h : k ≤ x) : (regBlock s x)[k.val]?.getD 0 = s.reg k := by
  have : k.val < x.val + 1 := Nat.lt_succ_of_le h
  simp [regBlock, this, State.reg]

theorem indexAfterBlock_chip8 {s : State} (h : s.variant = .chip8) {x : RegIdx} (hr : s.i.toNat + x.val ≤ 4095) :
    (indexAfterBlock s x).toNat = s.i.toNat + x.val + 1 := by
  simp [indexAfterBlock, h]
  omega

theorem indexAfterBlock_schip {s : State} (h : s.variant = .schip) (x : RegIdx) : indexAfterBlock s x = s.i := by
  simp [indexAfterBlock, h]

theorem mem_keyScanOrder (k : RegIdx) : k ∈ keyScanOrder := by
  revert k
  decide

/-- The scan finds nothing exactly when no key is pressed. -/
theorem firstKeyDown_eq_none {s : State} : s.firstKeyDown = none ↔ ∀ k, s.keyDown k = false := by
  simp [State.firstKeyDown, mem_keyScanOrder]

/-- The scan finds the lowest pressed key. -/
theorem firstKeyDown_eq_some {s : State} {k : RegIdx} (hk : s.keyDown k = true) (hlow : ∀ j, j < k → s.keyDown j = false) :
    s.firstKeyDown = some k := by
  cases hf : s.firstKeyDown with
  | none => exact absurd (firstKeyDown_eq_none.1 hf k) (by simp [hk])
  | some j =>
    obtain ⟨hj, as, bs, has, hno⟩ := List.find?_eq_some_iff_append.1 hf
    have hjk : ¬j < k := fun h => by simp [hlow j h] at hj
    have hkj : ¬k < j := by
      intro h
      have hsorted : keyScanOrder.Pairwise (· < ·) := by decide
      rw [has, List.pairwise_append] at hsorted
      have hmem := has ▸ mem_keyScanOrder k
      rcases List.mem_append.1 hmem with hm | hm
      · simpa [hk] using hno k hm
      · rcases List.mem_cons.1 hm with rfl | hm
        · exact lt_irrefl _ h
        · exact lt_asymm h ((List.pairwise_cons.1 hsorted.2.1).1 k hm)
    rw [le_antisymm (not_lt.1 hkj) (not_lt.1 hjk)]

end Sys2Proof.Machine
end

