-- ==== Sys2Proof/Laws/PerInstr.lean ====
section
/-! SUPPORT. The per-instruction family OpcodeRow: the encoded word of a well-formed instruction matches the
instruction's own row of the opcode map (30_encoding.md R100). -/

namespace Sys2Proof.Laws.OpcodeRow

/-- The word of a well-formed instruction has every fixed digit of its row, under every variant the row allows. -/
def Statement (i : Instr) : Prop :=
  ∀ v, i.wellFormed v = true → (opcodePattern i).matchesWord v (encode i) = true

/-- A row of both variants matches when its fixed digits are there. -/
theorem of_bits {i : Instr} (hs : (opcodePattern i).schipOnly = false)
    (h : encode i &&& (opcodePattern i).mask = (opcodePattern i).bits) : Statement i := by
  intro v _
  simp [OpcodePattern.matchesWord, hs, h]

/-- An SCHIP-only row matches under the one variant where its instruction is well formed. -/
theorem of_schip {i : Instr} (hw : ∀ v, i.wellFormed v = (v == .schip))
    (h : encode i &&& (opcodePattern i).mask = (opcodePattern i).bits) : Statement i := by
  intro v hv
  rw [hw] at hv
  simp [OpcodePattern.matchesWord, hv, h]

/-- Masking the fixed digits of formats A, XK and XY gives back the fixed digits. -/
theorem packA_mask (a : Nibble) (nnn : Addr12) : packA a nnn &&& pack 0xF 0 0 0 = pack a 0 0 0 := by
  rw [packA_eq, pack_and]; congr 1 <;> first | exact BitVec.and_allOnes | exact BitVec.and_zero

theorem packXK_mask (a : Nibble) (x : RegIdx) (kk : Byte) : packXK a x kk &&& pack 0xF 0 0 0 = pack a 0 0 0 := by
  rw [packXK_eq, pack_and]; congr 1 <;> first | exact BitVec.and_allOnes | exact BitVec.and_zero

theorem packXF_mask (a : Nibble) (x : RegIdx) (fn : Byte) :
    packXF a x fn &&& pack 0xF 0 0xF 0xF = pack a 0 (kkHi fn) (kkLo fn) := by
  rw [packXF, packXK_eq, pack_and]; congr 1 <;> first | exact BitVec.and_allOnes | exact BitVec.and_zero

theorem packXY_mask (a : Nibble) (x y : RegIdx) (d : Nibble) :
    packXY a x y d &&& pack 0xF 0 0 0xF = pack a 0 0 d := by
  rw [packXY, pack_and]; congr 1 <;> first | exact BitVec.and_allOnes | exact BitVec.and_zero

theorem cls : Statement (.cls) := of_bits rfl rfl

theorem ret : Statement (.ret) := of_bits rfl rfl

theorem scd (n : Nibble) : Statement (.scd n) := by
  refine of_schip (fun _ => rfl) ?_
  have h : pack 0 0 0xC n &&& pack 0xF 0xF 0xF 0 = pack 0 0 0xC 0 := by
    rw [pack_and]; congr 1; exact BitVec.and_zero
  exact h

theorem scr : Statement (.scr) := of_schip (fun _ => rfl) rfl

theorem scl : Statement (.scl) := of_schip (fun _ => rfl) rfl

theorem exit : Statement (.exit) := of_schip (fun _ => rfl) rfl

theorem low : Statement (.low) := of_schip (fun _ => rfl) rfl

theorem high : Statement (.high) := of_schip (fun _ => rfl) rfl

theorem jp (nnn : Addr12) : Statement (.jp nnn) := of_bits rfl (packA_mask ..)

theorem call (nnn : Addr12) : Statement (.call nnn) := of_bits rfl (packA_mask ..)

theorem seImm (x : RegIdx) (kk : Byte) : Statement (.seImm x kk) := of_bits rfl (packXK_mask ..)

theorem sneImm (x : RegIdx) (kk : Byte) : Statement (.sneImm x kk) := of_bits rfl (packXK_mask ..)

theorem seReg (x : RegIdx) (y : RegIdx) : Statement (.seReg x y) := of_bits rfl (packXY_mask ..)

theorem ldImm (x : RegIdx) (kk : Byte) : Statement (.ldImm x kk) := of_bits rfl (packXK_mask ..)

theorem addImm (x : RegIdx) (kk : Byte) : Statement (.addImm x kk) := of_bits rfl (packXK_mask ..)

theorem ldReg (x : RegIdx) (y : RegIdx) : Statement (.ldReg x y) := of_bits rfl (packXY_mask ..)

theorem orReg (x : RegIdx) (y : RegIdx) : Statement (.orReg x y) := of_bits rfl (packXY_mask ..)

theorem andReg (x : RegIdx) (y : RegIdx) : Statement (.andReg x y) := of_bits rfl (packXY_mask ..)

theorem xorReg (x : RegIdx) (y : RegIdx) : Statement (.xorReg x y) := of_bits rfl (packXY_mask ..)

theorem addReg (x : RegIdx) (y : RegIdx) : Statement (.addReg x y) := of_bits rfl (packXY_mask ..)

theorem sub (x : RegIdx) (y : RegIdx) : Statement (.sub x y) := of_bits rfl (packXY_mask ..)

theorem shr (x : RegIdx) (y : RegIdx) : Statement (.shr x y) := of_bits rfl (packXY_mask ..)

theorem subn (x : RegIdx) (y : RegIdx) : Statement (.subn x y) := of_bits rfl (packXY_mask ..)

theorem shl (x : RegIdx) (y : RegIdx) : Statement (.shl x y) := of_bits rfl (packXY_mask ..)

theorem sneReg (x : RegIdx) (y : RegIdx) : Statement (.sneReg x y) := of_bits rfl (packXY_mask ..)

theorem ldI (nnn : Addr12) : Statement (.ldI nnn) := of_bits rfl (packA_mask ..)

theorem jpV0 (nnn : Addr12) : Statement (.jpV0 nnn) := of_bits rfl (packA_mask ..)

theorem rnd (x : RegIdx) (kk : Byte) : Statement (.rnd x kk) := of_bits rfl (packXK_mask ..)

theorem drw (x : RegIdx) (y : RegIdx) (n : Nibble) : Statement (.drw x y n) := by
  have h : packXY 0xD x y n &&& pack 0xF 0 0 0 = pack 0xD 0 0 0 := by
    rw [packXY, pack_and]; congr 1 <;> exact BitVec.and_zero
  exact of_bits rfl h

theorem skp (x : RegIdx) : Statement (.skp x) := of_bits rfl (packXF_mask ..)

theorem sknp (x : RegIdx) : Statement (.sknp x) := of_bits rfl (packXF_mask ..)

theorem ldVxDt (x : RegIdx) : Statement (.ldVxDt x) := of_bits rfl (packXF_mask ..)

theorem ldVxK (x : RegIdx) : Statement (.ldVxK x) := of_bits rfl (packXF_mask ..)

theorem ldDtVx (x : RegIdx) : Statement (.ldDtVx x) := of_bits rfl (packXF_mask ..)

theorem ldStVx (x : RegIdx) : Statement (.ldStVx x) := of_bits rfl (packXF_mask ..)

theorem addI (x : RegIdx) : Statement (.addI x) := of_bits rfl (packXF_mask ..)

theorem ldF (x : RegIdx) : Statement (.ldF x) := of_bits rfl (packXF_mask ..)

theorem ldHf (x : RegIdx) : Statement (.ldHf x) := of_bits rfl (packXF_mask ..)

theorem ldB (x : RegIdx) : Statement (.ldB x) := of_bits rfl (packXF_mask ..)

theorem ldMemVx (x : RegIdx) : Statement (.ldMemVx x) := of_bits rfl (packXF_mask ..)

theorem ldVxMem (x : RegIdx) : Statement (.ldVxMem x) := of_bits rfl (packXF_mask ..)

theorem ldRVx (x : RegIdx) : Statement (.ldRVx x) := of_bits rfl (packXF_mask ..)

theorem ldVxR (x : RegIdx) : Statement (.ldVxR x) := of_bits rfl (packXF_mask ..)

theorem unknown (w : Word) : Statement (.unknown w) := of_bits rfl BitVec.and_zero

end Sys2Proof.Laws.OpcodeRow
end

