-- ==== Sys2Proof/Laws/Step.lean ====
section
/-! SUPPORT. What a step can do: it is stopped, it faults at the fetch, or it executes the decoded instruction
(30_encoding.md R95, R96). -/

namespace Sys2Proof.Machine

theorem step_of_stopped {s : State} (h : s.running = false) : step s = .next s := by
  simp [step, h]

theorem step_of_fetchFault {s : State} (h : s.running = true) (hf : 4095 < s.pc.toNat + 1) :
    step s = .next (s.raise .fetchFault) := by
  have : fetchOk s.pc = false := by simp [fetchOk]; omega
  simp [step, h, this]

theorem step_of_fetch {s : State} (h : s.running = true) (hf : s.pc.toNat + 1 ≤ 4095) :
    step s = exec (decode s.variant (fetchWord s)) s := by
  simp [step, h, fetchOk_iff, hf]

/-- Everything a step can answer. -/
theorem step_cases {s t : State} (h : step s = .next t) :
    (s.running = false ∧ t = s) ∨
    (s.running = true ∧ 4095 < s.pc.toNat + 1 ∧ t = s.raise .fetchFault) ∨
    (s.running = true ∧ s.pc.toNat + 1 ≤ 4095 ∧ exec (decode s.variant (fetchWord s)) s = .next t) := by
  cases hr : s.running with
  | false =>
    rw [step_of_stopped hr] at h
    cases h
    exact .inl ⟨rfl, rfl⟩
  | true =>
    by_cases hf : s.pc.toNat + 1 ≤ 4095
    · exact .inr (.inr ⟨rfl, hf, step_of_fetch hr hf ▸ h⟩)
    · rw [step_of_fetchFault hr (by omega)] at h
      cases h
      exact .inr (.inl ⟨rfl, by omega, rfl⟩)

/-- Events in sequence. -/
theorem runEvents_cons_next {e : Event} {es : List Event} {s t : State} (h : transition e s = .next t) :
    runEvents (e :: es) s = runEvents es t := by
  simp [runEvents, h]

end Sys2Proof.Machine
end

