-- ==== Sys2Proof/Tests/Slice0.lean ====
section
/-! SUPPORT. Tests: words written out from the encodings of 30_encoding.md R91, R92 and R100, the vectors of
95_test_vectors.md (each test names its vector), and for every obligation with hypotheses a witness that meets them. -/

namespace Sys2Proof.Tests

open Sys2Proof.Machine

/-! ## Helpers -/

/-- The state after reset with the word w at PC, under CHIP8 (under SCHIP for an SCHIP-only word). -/
def at8 (w : Nat) : State := State.reset.withFetchWord 16 w

/-- The same under SCHIP. -/
def atS (w : Nat) : State := { State.reset.withFetchWord 16 w with variant := .schip }

/-- A check on the next state. -/
def ck (o : Out) (f : State → Bool) : Bool :=
  match o with
  | .next t => f t
  | .fault _ => false
  | .refused _ => false

/-- Registers set in turn. -/
def withV (xs : List (RegIdx × Byte)) (s : State) : State := xs.foldl (fun s xb => s.setReg xb.1 xb.2) s

/-- Bytes put into memory. -/
def poke (a : Nat) (bs : List Byte) (s : State) : State := s.setMem (s.mem.writeBytes a bs)

/-- The bytes from an address. -/
def peek (s : State) (a n : Nat) : List Byte := (List.range n).map fun k => s.mem.read (a + k)

/-- The lit pixels of a plane in a range of rows, as (column, row). -/
def lit {w h : Nat} (p : Plane w h) (rows : List Nat) : List (Nat × Nat) :=
  rows.flatMap fun r => (List.range w).filterMap fun c => if p.pixel r c then some (c, r) else none

/-! ## Well-formedness -/

theorem test_wf_refuses_scd_under_chip8 : Instr.wellFormed .chip8 (.scd 3) = false := by decide
theorem test_wf_refuses_scr_under_chip8 : Instr.wellFormed .chip8 .scr = false := by decide
theorem test_wf_refuses_scl_under_chip8 : Instr.wellFormed .chip8 .scl = false := by decide
theorem test_wf_refuses_exit_under_chip8 : Instr.wellFormed .chip8 .exit = false := by decide
theorem test_wf_refuses_low_under_chip8 : Instr.wellFormed .chip8 .low = false := by decide
theorem test_wf_refuses_high_under_chip8 : Instr.wellFormed .chip8 .high = false := by decide
/-- A word with a pattern of its own is no `unknown`, in every family that has UNKNOWN words and in one that has none. -/
theorem test_wf_refuses_unknown_of_a_pattern :
    [0x00E0#16, 0x00EE#16, 0x00C7#16, 0x00FB#16, 0x5120#16, 0x8AB6#16, 0x9120#16, 0xE59E#16, 0xF385#16, 0x6000#16].all
      (fun w => !Instr.wellFormed .schip (.unknown w)) = true := by decide
theorem test_wf_accepts_gated_word_as_unknown_under_chip8 :
    [0x00C0#16, 0x00CF#16, 0x00FB#16, 0x00FF#16].all (fun w => Instr.wellFormed .chip8 (.unknown w)) = true := by decide

/-! ## Decoding: the words of R100, written out bit by bit from the layouts of R92 -/

theorem test_decode_family0 :
    decode .chip8 0b0000000011100000 = .cls ∧ decode .chip8 0b0000000011101110 = .ret ∧
    decode .schip 0b0000000011000011 = .scd 3 ∧ decode .schip 0b0000000011111011 = .scr ∧
    decode .schip 0b0000000011111100 = .scl ∧ decode .schip 0b0000000011111101 = .exit ∧
    decode .schip 0b0000000011111110 = .low ∧ decode .schip 0b0000000011111111 = .high := by decide
theorem test_decode_jump_call_skip :
    decode .chip8 0b0001001000110100 = .jp 0x234 ∧ decode .chip8 0b0010001100000000 = .call 0x300 ∧
    decode .chip8 0b0011001100101010 = .seImm 3 0x2A ∧ decode .chip8 0b0100001100101010 = .sneImm 3 0x2A ∧
    decode .chip8 0b0101000100100000 = .seReg 1 2 ∧ decode .chip8 0b1001000100100000 = .sneReg 1 2 := by decide
theorem test_decode_load_add :
    decode .chip8 0b0110101000111100 = .ldImm 10 0x3C ∧ decode .chip8 0b0111000011111111 = .addImm 0 0xFF := by decide
theorem test_decode_alu :
    decode .chip8 0b1000000100100000 = .ldReg 1 2 ∧ decode .chip8 0b1000000100100001 = .orReg 1 2 ∧
    decode .chip8 0b1000000100100010 = .andReg 1 2 ∧ decode .chip8 0b1000000100100011 = .xorReg 1 2 ∧
    decode .chip8 0b1000000100100100 = .addReg 1 2 ∧ decode .chip8 0b1000000100100101 = .sub 1 2 ∧
    decode .chip8 0b1000000100100110 = .shr 1 2 ∧ decode .chip8 0b1000000100100111 = .subn 1 2 ∧
    decode .chip8 0b1000000100101110 = .shl 1 2 := by decide
theorem test_decode_index_random_draw :
    decode .chip8 0b1010001011110000 = .ldI 0x2F0 ∧ decode .chip8 0b1011001100000000 = .jpV0 0x300 ∧
    decode .chip8 0b1100000100001111 = .rnd 1 0x0F ∧ decode .chip8 0b1101000100100101 = .drw 1 2 5 := by decide
theorem test_decode_keys :
    decode .chip8 0b1110001010011110 = .skp 2 ∧ decode .chip8 0b1110001010100001 = .sknp 2 := by decide
theorem test_decode_familyF :
    decode .chip8 0b1111010100000111 = .ldVxDt 5 ∧ decode .chip8 0b1111001100001010 = .ldVxK 3 ∧
    decode .chip8 0b1111010100010101 = .ldDtVx 5 ∧ decode .chip8 0b1111010100011000 = .ldStVx 5 ∧
    decode .chip8 0b1111001000011110 = .addI 2 ∧ decode .chip8 0b1111000000101001 = .ldF 0 ∧
    decode .chip8 0b1111000000110000 = .ldHf 0 ∧ decode .chip8 0b1111010000110011 = .ldB 4 ∧
    decode .chip8 0b1111001001010101 = .ldMemVx 2 ∧ decode .chip8 0b1111001001100101 = .ldVxMem 2 ∧
    decode .chip8 0b1111000101110101 = .ldRVx 1 ∧ decode .chip8 0b1111000110000101 = .ldVxR 1 := by decide
/-- E3: UNKNOWN under both variants. -/
theorem test_decode_unknown :
    [0x0000#16, 0x0123#16, 0x01E0#16, 0x0AEE#16, 0x00E1#16, 0x00B0#16, 0x00D0#16, 0x00FA#16, 0x8018#16, 0x801F#16,
      0x5121#16, 0x9125#16, 0xE19D#16, 0xE29F#16, 0xE2A0#16, 0xE000#16, 0xF100#16, 0xF1FF#16, 0xF054#16, 0xF1A1#16].all
      (fun w => decode .chip8 w == .unknown w && decode .schip w == .unknown w) = true := by decide
/-- E4, E5 and R98. -/
theorem test_decode_gated : [0x00C3#16, 0x00FB#16, 0x00FC#16, 0x00FD#16, 0x00FE#16, 0x00FF#16].all
    (fun w => decode .chip8 w == .unknown w) = true := by decide
theorem test_decode_bytes_big_endian : decodeBytes .chip8 [0xD1, 0x25, 0x60] = .ok (.drw 1 2 5, [0x60]) := by decide
theorem test_decode_bytes_truncated : decodeBytes .chip8 [0xD1] = .error .truncated := by decide
theorem test_decode_table_word : decodeTableWord 16 0x00FF = some .high ∧ decodeTableWord 16 0xF085 = some (.ldVxR 0) := by
  decide

/-! ## One step, from the vectors -/

/-- Z1. -/
theorem test_cls : ck (step { at8 0x00E0 with
    fbLo := (Plane.clear 64 32).toggle 0 0, fbHi := (Plane.clear 128 64).toggle 5 5, changed := false })
    (fun t => !t.fbLo.pixel 0 0 && !t.fbHi.pixel 5 5 && t.changed && t.pc == 0x202) = true := by decide
/-- Z2. -/
theorem test_ret : ck (step (poke 0x300 [0x00, 0xEE] { State.reset with
    sp := 1, stack := (Vector.replicate 16 0).set 0 0x204, pc := 0x300 })) (fun t => t.pc == 0x204 && t.sp == 0) = true := by
  decide
/-- Z3. -/
theorem test_ret_underflow : ck (step (at8 0x00EE)) (fun t =>
    !t.running && faultCode t.faultCause == 4 && t.pc == 0x200 && t.sp == 0) = true := by decide
/-- Z4 and Z6. -/
theorem test_scd : ck (step { atS 0x00CF with scrollY := 32760 }) (fun t => t.scrollY.toInt == -32761) = true := by decide
/-- Z6. -/
theorem test_scr : ck (step { atS 0x00FB with scrollX := 32766 }) (fun t => t.scrollX.toInt == -32766) = true := by decide
/-- Z7. -/
theorem test_scl : ck (step { atS 0x00FC with scrollX := 0x8000 }) (fun t => t.scrollX.toInt == 32764) = true := by decide
/-- S7. -/
theorem test_exit : ck (step (atS 0x00FD)) (fun t => !t.running && t.faultCause == .none && t.pc == 0x202) = true := by decide
/-- S7 under CHIP8, where 00FD is UNKNOWN. -/
theorem test_exit_chip8 : ck (step { at8 0x00FD with variant := .chip8 }) (fun t => t.running && t.pc == 0x202) = true := by
  decide
/-- Z4. -/
theorem test_low : ck (step { atS 0x00FE with highRes := true }) (fun t => !t.highRes && t.pc == 0x202) = true := by decide
/-- Z4. -/
theorem test_high : ck (step (atS 0x00FF)) (fun t => t.highRes && t.pc == 0x202) = true := by decide
/-- E6. -/
theorem test_unknown : ck (step (withV [(1, 7), (2, 7)] (at8 0x5121))) (fun t => t.pc == 0x202 && t.running) = true := by decide
/-- J1. -/
theorem test_jp : ck (step (at8 0x1234)) (fun t => t.pc == 0x234) = true := by decide
/-- J3. -/
theorem test_call : ck (step (poke 0x202 [0x23, 0x00] { State.reset with pc := 0x202 })) (fun t =>
    t.stack[0] == 0x204 && t.sp == 1 && t.pc == 0x300) = true := by decide
/-- X1. -/
theorem test_call_overflow : ck (step { at8 0x2300 with sp := 16 }) (fun t =>
    !t.running && faultCode t.faultCause == 3 && t.pc == 0x200 && t.sp == 16 && t.stack[15] == 0) = true := by decide
/-- J5. -/
theorem test_seImm : (ck (step (withV [(3, 0x2A)] (at8 0x332A))) (fun t => t.pc == 0x204) &&
    ck (step (withV [(3, 0x2B)] (at8 0x332A))) (fun t => t.pc == 0x202)) = true := by decide
/-- J6. -/
theorem test_sneImm : (ck (step (withV [(3, 0x2A)] (at8 0x432A))) (fun t => t.pc == 0x202) &&
    ck (step (at8 0x432A)) (fun t => t.pc == 0x204)) = true := by decide
/-- J7. -/
theorem test_seReg : (ck (step (withV [(1, 7), (2, 7)] (at8 0x5120))) (fun t => t.pc == 0x204) &&
    ck (step (withV [(1, 7), (2, 8)] (at8 0x5120))) (fun t => t.pc == 0x202)) = true := by decide
/-- J9. -/
theorem test_sneReg : (ck (step (withV [(1, 7), (2, 8)] (at8 0x9120))) (fun t => t.pc == 0x204) &&
    ck (step (withV [(1, 7), (2, 7)] (at8 0x9120))) (fun t => t.pc == 0x202)) = true := by decide
/-- J12 and J13: the last word of memory runs, and behind it the fetch faults. -/
theorem test_fetch_end : (ck (step (poke 0xFFE [0x60, 0x11] { State.reset with pc := 0xFFE })) (fun t =>
      t.reg 0 == 0x11 && t.pc == 0x1000 && t.running) &&
    ck (step { State.reset with pc := 0xFFF }) (fun t =>
      !t.running && faultCode t.faultCause == 1 && t.pc == 0xFFF)) = true := by decide
/-- E7, second step: an odd PC. -/
theorem test_fetch_odd : ck (step (poke 0x203 [0x60, 0x07] { State.reset with pc := 0x203 })) (fun t =>
    t.reg 0 == 7 && t.pc == 0x205) = true := by decide
/-- J14. -/
theorem test_jpV0 : (ck (step (withV [(0, 0x04), (3, 0x10)] (at8 0xB300))) (fun t => t.pc == 0x304) &&
    ck (step (withV [(0, 0x04), (3, 0x10)] (atS 0xB300))) (fun t => t.pc == 0x310)) = true := by decide
/-- J15. -/
theorem test_jpV0_unmasked : ck (step (withV [(0, 0xFF), (15, 0xFF)] (at8 0xBFFF))) (fun t => t.pc == 0x10FE) = true := by decide
/-- A2. -/
theorem test_ldImm : ck (step (at8 0x6F99)) (fun t => t.reg 15 == 0x99) = true := by decide
/-- A4. -/
theorem test_addImm : ck (step (withV [(0, 0xFF), (15, 0x44)] (at8 0x7001))) (fun t => t.reg 0 == 0 && t.reg 15 == 0x44) = true := by
  decide
/-- A6. -/
theorem test_ldReg : ck (step (withV [(1, 0x22), (15, 0x55)] (at8 0x8010))) (fun t => t.reg 0 == 0x22 && t.reg 15 == 0x55) = true := by
  decide
/-- A7. -/
theorem test_orReg : (ck (step (withV [(0, 0xF0), (1, 0x0F), (15, 0x55)] (at8 0x8011))) (fun t => t.reg 0 == 0xFF && t.reg 15 == 0) &&
    ck (step (withV [(0, 0xF0), (1, 0x0F), (15, 0x55)] (atS 0x8011))) (fun t => t.reg 0 == 0xFF && t.reg 15 == 0x55)) = true := by
  decide
/-- A35. -/
theorem test_orReg_vf : (ck (step (withV [(15, 0x0F), (1, 0xF0)] (at8 0x8F11))) (fun t => t.reg 15 == 0) &&
    ck (step (withV [(15, 0x0F), (1, 0xF0)] (atS 0x8F11))) (fun t => t.reg 15 == 0xFF)) = true := by decide
/-- A8. -/
theorem test_andReg : (ck (step (withV [(0, 0xF0), (1, 0x3C), (15, 0x55)] (at8 0x8012))) (fun t => t.reg 0 == 0x30 && t.reg 15 == 0) &&
    ck (step (withV [(0, 0xF0), (1, 0x3C), (15, 0x55)] (atS 0x8012))) (fun t => t.reg 0 == 0x30 && t.reg 15 == 0x55)) = true := by
  decide
/-- A9. -/
theorem test_xorReg : (ck (step (withV [(0, 0xFF), (1, 0x0F), (15, 0x55)] (at8 0x8013))) (fun t => t.reg 0 == 0xF0 && t.reg 15 == 0) &&
    ck (step (withV [(0, 0xFF), (1, 0x0F), (15, 0x55)] (atS 0x8013))) (fun t => t.reg 0 == 0xF0 && t.reg 15 == 0x55)) = true := by
  decide
/-- A11 and A12. -/
theorem test_addReg : (ck (step (withV [(0, 0xFF), (1, 0x01)] (at8 0x8014))) (fun t => t.reg 0 == 0 && t.reg 15 == 1) &&
    ck (step (withV [(0, 0x80), (1, 0x7F)] (at8 0x8014))) (fun t => t.reg 0 == 0xFF && t.reg 15 == 0)) = true := by decide
/-- A31. -/
theorem test_addReg_vf : ck (step (withV [(15, 0x01), (1, 0x01)] (at8 0x8F14))) (fun t => t.reg 15 == 0) = true := by decide
/-- S2, the source's own example. -/
theorem test_sub : ck (step (withV [(0, 0xFF), (1, 0x01)] (at8 0x8015))) (fun t =>
    t.reg 0 == 0xFE && t.reg 15 == 1 && t.pc == 0x202) = true := by decide
/-- A16 and A17. -/
theorem test_sub_borrow : (ck (step (withV [(0, 0x01), (1, 0x02)] (at8 0x8015))) (fun t => t.reg 0 == 0xFF && t.reg 15 == 0) &&
    ck (step (withV [(0, 0x07), (1, 0x07)] (at8 0x8015))) (fun t => t.reg 0 == 0 && t.reg 15 == 1)) = true := by decide
/-- A21. -/
theorem test_shr : (ck (step (withV [(0, 0x03), (1, 0x04)] (at8 0x8016))) (fun t => t.reg 0 == 2 && t.reg 15 == 0 && t.reg 1 == 4) &&
    ck (step (withV [(0, 0x03), (1, 0x04)] (atS 0x8016))) (fun t => t.reg 0 == 1 && t.reg 15 == 1)) = true := by decide
/-- A39. -/
theorem test_shr_from_vf : (ck (step (withV [(0, 0x10), (15, 0x03)] (at8 0x80F6))) (fun t => t.reg 0 == 1 && t.reg 15 == 1) &&
    ck (step (withV [(0, 0x10), (15, 0x03)] (atS 0x80F6))) (fun t => t.reg 0 == 8 && t.reg 15 == 0)) = true := by decide
/-- A19 and A20. -/
theorem test_subn : (ck (step (withV [(0, 0x01), (1, 0x02)] (at8 0x8017))) (fun t => t.reg 0 == 1 && t.reg 15 == 1) &&
    ck (step (withV [(0, 0x02), (1, 0x01)] (at8 0x8017))) (fun t => t.reg 0 == 0xFF && t.reg 15 == 0)) = true := by decide
/-- A24. -/
theorem test_shl : (ck (step (withV [(0, 0x81), (1, 0x40)] (at8 0x801E))) (fun t => t.reg 0 == 0x80 && t.reg 15 == 0) &&
    ck (step (withV [(0, 0x81), (1, 0x40)] (atS 0x801E))) (fun t => t.reg 0 == 2 && t.reg 15 == 1)) = true := by decide
/-- A34. -/
theorem test_shl_vf : (ck (step (withV [(15, 0x81), (1, 0x02)] (at8 0x8F1E))) (fun t => t.reg 15 == 0) &&
    ck (step (withV [(15, 0x81), (1, 0x02)] (atS 0x8F1E))) (fun t => t.reg 15 == 1)) = true := by decide
/-- I2. -/
theorem test_ldI : ck (step (at8 0xAFFF)) (fun t => t.i == 0xFFF) = true := by decide
/-- I3, with the draw given. -/
theorem test_rnd : (rndWith 0xA7 1 0x0F State.reset).reg 1 = 0x07 := by decide
/-- I4: kk = 0 gives 0 whatever the draw. -/
theorem test_rnd_masked_out (b : Byte) : (rndWith b 1 0x00 State.reset).reg 1 = 0x00 := by
  simp [rndWith, State.reg, State.setReg]

/-- A draw at (V0, V1) from 0x300. -/
def draw (w : Nat) (bytes : List Byte) (x y : Byte) (s : State) : State :=
  poke 0x300 bytes { withV [(0, x), (1, y)] (s.withFetchWord 16 w) with i := 0x300, changed := false }

/-- D3: seven bits land on column 63. -/
theorem test_drw_clamp : ck (step (draw 0xD011 [0xFF] 62 0 State.reset)) (fun t =>
    lit t.fbLo [0] == [(62, 0), (63, 0)] && t.reg 15 == 1 && t.changed && t.pc == 0x202) = true := by decide
/-- D7: three rows land on row 31. -/
theorem test_drw_clamp_rows : ck (step (draw 0xD014 [0x80, 0x80, 0x80, 0x80] 0 30 State.reset)) (fun t =>
    lit t.fbLo [30, 31, 0] == [(0, 30), (0, 31)] && t.reg 15 == 1) = true := by decide
/-- D28: SCHIP, scroll_x = -4 clips four columns. -/
theorem test_drw_schip_scroll : ck (step (draw 0xD011 [0xFF] 0 0 { State.reset with variant := .schip, scrollX := 0xFFFC }))
    (fun t => lit t.fbLo [0] == [(0, 0), (1, 0), (2, 0), (3, 0)] && t.reg 15 == 0 && t.changed) = true := by decide
/-- D25 in its first row: sixteen columns from two bytes, the lower address on the left. -/
theorem test_drw_schip_16 : ck (step (draw 0xD010 [0x80, 0x01] 0 0 { State.reset with variant := .schip, highRes := true }))
    (fun t => lit t.fbHi [0] == [(0, 0), (15, 0)] && t.fbLo == Plane.clear 64 32 && t.reg 15 == 0) = true := by decide
/-- D41 and D40. -/
theorem test_drw_fault : (ck (step { withV [(15, 9)] (at8 0xD012) with i := 4095 }) (fun t =>
      !t.running && faultCode t.faultCause == 2 && t.pc == 0x200 && t.reg 15 == 9) &&
    ck (step { withV [(15, 9)] (at8 0xD011) with i := 4095 }) (fun t => t.running && t.reg 15 == 0)) = true := by decide
/-- K6 and K8. -/
theorem test_skp : (ck (step (hostSetKey 5 true (withV [(2, 5)] (at8 0xE29E)))) (fun t => t.pc == 0x204) &&
    ck (step (hostSetKey 0xA true (withV [(2, 0x1A)] (at8 0xE29E)))) (fun t => t.pc == 0x204)) = true := by decide
/-- K7 and K9. -/
theorem test_sknp : (ck (step (withV [(2, 5)] (at8 0xE2A1))) (fun t => t.pc == 0x204) &&
    ck (step (hostSetKey 5 true (withV [(2, 0xF5)] (at8 0xE2A1)))) (fun t => t.pc == 0x202)) = true := by decide
/-- K1, steps 1 and 2. -/
theorem test_ldVxK_press : (ck (step (at8 0xF30A)) (fun t => t.pc == 0x200 && t.waiting && !t.waitKey) &&
    ck (step { hostSetKey 9 true (hostSetKey 7 true (at8 0xF30A)) with waiting := true }) (fun t =>
      t.waitKey && t.waitIndex == 7 && t.pc == 0x200)) = true := by decide
/-- K1, step 4. -/
theorem test_ldVxK_release : ck (step { hostSetKey 9 true (at8 0xF30A) with waitKey := true, waitIndex := 7, waiting := true })
    (fun t => t.reg 3 == 7 && !t.waitKey && !t.waiting && t.waitIndex == 7 && t.pc == 0x202) = true := by decide
/-- F1. -/
theorem test_ldVxDt : ck (step { at8 0xF507 with dt := 0x3C }) (fun t => t.reg 5 == 0x3C) = true := by decide
/-- S5, first word. -/
theorem test_ldDtVx : ck (step (withV [(5, 0x3C)] (at8 0xF515))) (fun t => t.dt == 0x3C) = true := by decide
/-- F2. -/
theorem test_ldStVx : ck (step (withV [(0, 0x0A)] (at8 0xF018))) (fun t => t.st == 0x0A && soundOn t) = true := by decide
/-- F4 and F5. -/
theorem test_addI : (ck (step { withV [(2, 0x0F), (15, 7)] (at8 0xF21E) with i := 0xF0 }) (fun t => t.i == 0xFF && t.reg 15 == 0) &&
    ck (step { withV [(2, 0x10)] (at8 0xF21E) with i := 0xF0 }) (fun t => t.i == 0x100 && t.reg 15 == 1)) = true := by decide
/-- F7. -/
theorem test_addI_wraps : ck (step { withV [(2, 1)] (at8 0xF21E) with i := 0xFFFF }) (fun t => t.i == 0 && t.reg 15 == 1) = true := by
  decide
/-- F3. -/
theorem test_ldF : (ck (step (withV [(0, 0x0A)] (at8 0xF029))) (fun t => t.i == 0x82) &&
    ck (step (withV [(0, 0xFF)] (at8 0xF029))) (fun t => t.i == 0x9B)) = true := by decide
/-- F3. -/
theorem test_ldHf : (ck (step (withV [(0, 0x1A)] (at8 0xF030))) (fun t => t.i == 0x104) &&
    ck (step (withV [(0, 0x0F)] (at8 0xF030))) (fun t => t.i == 0x136)) = true := by decide
/-- F13 and F14. -/
theorem test_ldB : (ck (step { withV [(4, 156)] (at8 0xF433) with i := 0x300 }) (fun t => peek t 0x300 3 == [1, 5, 6] && t.i == 0x300) &&
    ck (step { withV [(4, 255)] (at8 0xF433) with i := 4093 }) (fun t => peek t 4093 3 == [2, 5, 5])) = true := by decide
/-- F15. -/
theorem test_ldB_fault : ck (step { withV [(4, 255)] (at8 0xF433) with i := 4094 }) (fun t =>
    !t.running && faultCode t.faultCause == 2 && t.pc == 0x200 && peek t 4094 2 == [0, 0]) = true := by decide
/-- F16. -/
theorem test_ldMemVx : (ck (step { withV [(0, 1), (1, 2), (2, 3), (3, 4)] (at8 0xF255) with i := 0x400 }) (fun t =>
      peek t 0x400 4 == [1, 2, 3, 0] && t.i == 0x403) &&
    ck (step { withV [(0, 1), (1, 2), (2, 3), (3, 4)] (atS 0xF255) with i := 0x400 }) (fun t =>
      peek t 0x400 4 == [1, 2, 3, 0] && t.i == 0x400)) = true := by decide
/-- F20 and F19. -/
theorem test_ldMemVx_fault : (ck (step { withV [(0, 0xAB)] (at8 0xF155) with i := 4095 }) (fun t =>
      !t.running && faultCode t.faultCause == 2 && peek t 4095 1 == [0] && t.i == 4095) &&
    ck (step { withV [(0, 0xAB)] (at8 0xF055) with i := 4095 }) (fun t =>
      t.running && peek t 4095 1 == [0xAB] && t.i == 4096)) = true := by decide
/-- F17. -/
theorem test_ldVxMem : (ck (step (poke 0x400 [9, 8, 7, 6] { withV [(3, 0x55)] (at8 0xF265) with i := 0x400 })) (fun t =>
      t.reg 0 == 9 && t.reg 1 == 8 && t.reg 2 == 7 && t.reg 3 == 0x55 && t.i == 0x403) &&
    ck (step (poke 0x400 [9, 8, 7, 6] { withV [(3, 0x55)] (atS 0xF265) with i := 0x400 })) (fun t =>
      t.reg 2 == 7 && t.reg 3 == 0x55 && t.i == 0x400)) = true := by decide
/-- F22. -/
theorem test_ldVxMem_fault : ck (step { withV [(0, 1)] (at8 0xFF65) with i := 4081 }) (fun t =>
    !t.running && faultCode t.faultCause == 2 && t.reg 0 == 1 && t.i == 4081) = true := by decide
/-- F25, first step. -/
theorem test_ldRVx : ck (step { withV [(0, 0xAA), (1, 0xBB), (2, 0xCC)] (at8 0xF175) with r := (Vector.replicate 16 0).set 2 0x11 })
    (fun t => t.r[0] == 0xAA && t.r[1] == 0xBB && t.r[2] == 0x11 && t.r[3] == 0) = true := by decide
/-- F25, last step. -/
theorem test_ldVxR : ck (step { withV [(3, 0xCC)] (at8 0xF285) with r := ((Vector.replicate 16 0).set 1 0xBB).set 3 0x11 })
    (fun t => t.reg 0 == 0 && t.reg 1 == 0xBB && t.reg 2 == 0 && t.reg 3 == 0xCC) = true := by decide

/-! ## Host operations -/

/-- S5 and X3: a tick in FAULTED, and no wrap at 0. -/
theorem test_timerTick : (hostTimerTick { State.reset with dt := 5, running := false, faultCause := .memFault }).dt = 4 ∧
    (hostTimerTick { State.reset with dt := 1, st := 0 }).dt = 0 ∧ (hostTimerTick { State.reset with dt := 1, st := 0 }).st = 0 := by
  decide
/-- H4. -/
theorem test_setKey : (hostSetKey 0xB true State.reset).keyDown 11 = true ∧ (hostSetKey 0xB true State.reset).keyDown 10 = false := by
  decide
/-- S1 at a small size. -/
theorem test_loadRom : (hostLoadRom [0x12, 0x0C] State.reset).map (fun t => peek t 0x200 3) = some [0x12, 0x0C, 0x00] := by
  decide
/-- H1 and X4. -/
theorem test_reset : (hostReset (poke 0x1FF [0x42, 0x01] { withV [(3, 9)] State.reset with
      scrollX := 8, highRes := true, variant := .schip, running := false, faultCause := .memFault })).mem.read 0x1FF = 0x42 ∧
    (hostReset (poke 0x1FF [0x42, 0x01] { State.reset with running := false, faultCause := .memFault })).mem.read 0x200 = 0 ∧
    (hostReset { State.reset with variant := .schip, running := false, faultCause := .memFault }).running = true ∧
    (hostReset { State.reset with variant := .schip, pc := 5 }).variant = .schip := by decide
/-- R310: with all strobes the step comes last and a changed flag it sets survives the clear. -/
theorem test_cycle : ck (cycle ⟨none, false, some .schip, [(1, true)], some [0x00, 0xE0], true, true, true⟩
    { State.reset with dt := 3, changed := false }) (fun t =>
      t.changed && t.dt == 2 && t.keyDown 1 && t.variant == .schip && t.pc == 0x202) = true := by decide

/-! ## Witnesses: for every obligation with hypotheses, concrete values that meet all of them, clause by clause -/

theorem witness_DecodeOfEncode : Instr.wellFormed .schip .scr = true ∧ Instr.wellFormed .chip8 (.unknown 0x00FB) = true ∧
    Instr.wellFormed .chip8 (.drw 15 15 15) = true := by decide
theorem witness_DecodeFollowsOpcodeMap :
    (opcodePattern .cls ∈ opcodeMap ∧ (opcodePattern .cls).matchesWord .chip8 0x00E0 = true) ∧
    (∀ p ∈ opcodeMap, p.matchesWord .chip8 0x5121 = false) :=
  ⟨⟨by decide, by decide⟩, fun p hp => by
    simpa using List.all_eq_true.1 (by decide : opcodeMap.all (fun p => !p.matchesWord .chip8 0x5121) = true) p hp⟩
theorem witness_SchipOnlyWordsGated : (∀ n : Nibble, 0x00D0#16 ≠ pack 0x0 0x0 0xC n) ∧
    0x00D0#16 ∉ [0x00FB#16, 0x00FC#16, 0x00FD#16, 0x00FE#16, 0x00FF#16] ∧
    (∀ n : Nibble, 0x00FA#16 ≠ pack 0x0 0x0 0xC n) ∧
    0x00FA#16 ∉ [0x00FB#16, 0x00FC#16, 0x00FD#16, 0x00FE#16, 0x00FF#16] := by decide
theorem witness_StepRunsDecodedInstruction : ({ State.reset with pc := 4094 } : State).running = true ∧
    ({ State.reset with pc := 4094 } : State).pc.toNat + 1 ≤ 4095 := by decide
theorem witness_FetchOutsideMemoryFaults : ({ State.reset with pc := 4095 } : State).running = true ∧
    ({ State.reset with pc := 4095 } : State).pc.toNat + 1 > 4095 := by decide
theorem witness_StoppedMachineIgnoresSteps : (State.reset.raise .memFault).running = false := by decide
theorem witness_InvariantKeptByStep : State.reset.Inv ∧ ∃ t, step State.reset = .next t := ⟨by decide, _, rfl⟩
theorem witness_InvariantKeptByHostOps : State.reset.Inv := by decide
/-- Both clauses, at the bounds of every condition of R281. -/
theorem witness_FaultsExactlyByTheTable :
    faultOf .ret State.reset ≠ .none ∧ faultOf .ret { State.reset with sp := 1 } = .none ∧
    faultOf (.call 0) { State.reset with sp := 16 } ≠ .none ∧ faultOf (.call 0) { State.reset with sp := 15 } = .none ∧
    faultOf (.drw 0 0 2) { State.reset with i := 4095 } ≠ .none ∧ faultOf (.drw 0 0 1) { State.reset with i := 4095 } = .none ∧
    faultOf (.drw 0 0 0) { State.reset with i := 0xFFFF } = .none ∧
    faultOf (.drw 0 0 0) { State.reset with i := 4065, variant := .schip, highRes := true } ≠ .none ∧
    faultOf (.drw 0 0 0) { State.reset with i := 4064, variant := .schip, highRes := true } = .none ∧
    faultOf (.ldB 0) { State.reset with i := 4094 } ≠ .none ∧ faultOf (.ldB 0) { State.reset with i := 4093 } = .none ∧
    faultOf (.ldMemVx 15) { State.reset with i := 4081 } ≠ .none ∧ faultOf (.ldMemVx 15) { State.reset with i := 4080 } = .none ∧
    faultOf (.ldVxMem 0) { State.reset with i := 4096 } ≠ .none ∧ faultOf (.ldVxMem 0) { State.reset with i := 4095 } = .none := by
  decide
theorem witness_StopsOnlyByExitOrFault :
    ((atS 0x00FD).running = true ∧ ∃ t, step (atS 0x00FD) = .next t ∧ t.running = false) ∧
    ((at8 0x00EE).running = true ∧ ∃ t, step (at8 0x00EE) = .next t ∧ t.running = false) :=
  ⟨⟨by decide, _, rfl, by decide⟩, by decide, _, rfl, by decide⟩
theorem witness_FaultedUntilReset : BadEnd (State.reset.raise .memFault) ∧
    ∀ e ∈ [Event.step, .host .timerTick, .host (.loadRom [1])], e ≠ .host .reset ∧ ∀ fs fb, e ≠ .host (.powerOn fs fb) := by
  refine ⟨by decide, ?_⟩
  simp
theorem witness_InputsNeverWrittenByCore : ∃ t, step State.reset = .next t := ⟨_, rfl⟩
/-- One instruction for every clause and every alternative of it. -/
theorem witness_IndexTimersFlagRegistersWriters :
    (∃ t, exec (.ldI 5) State.reset = .next t ∧ t.i ≠ State.reset.i) ∧
    (∃ t, exec (.addI 0) (withV [(0, 1)] State.reset) = .next t ∧ t.i ≠ State.reset.i) ∧
    (∃ t, exec (.ldF 0) State.reset = .next t ∧ t.i ≠ State.reset.i) ∧
    (∃ t, exec (.ldHf 0) State.reset = .next t ∧ t.i ≠ State.reset.i) ∧
    (∃ t, exec (.ldMemVx 0) State.reset = .next t ∧ t.i ≠ State.reset.i) ∧
    (∃ t, exec (.ldVxMem 0) State.reset = .next t ∧ t.i ≠ State.reset.i) ∧
    (∃ t, exec (.ldRVx 0) (withV [(0, 1)] State.reset) = .next t ∧ t.r ≠ State.reset.r) ∧
    (∃ t, exec (.ldDtVx 0) (withV [(0, 1)] State.reset) = .next t ∧ t.dt ≠ State.reset.dt) ∧
    (∃ t, exec (.ldStVx 0) (withV [(0, 1)] State.reset) = .next t ∧ t.st ≠ State.reset.st) :=
  ⟨⟨_, rfl, by decide⟩, ⟨_, rfl, by decide⟩, ⟨_, rfl, by decide⟩, ⟨_, rfl, by decide⟩, ⟨_, rfl, by decide⟩,
    ⟨_, rfl, by decide⟩, ⟨_, rfl, by decide⟩, ⟨_, rfl, by decide⟩, ⟨_, rfl, by decide⟩⟩
/-- The last byte of each block. -/
theorem witness_MemoryWriters : ({ State.reset with i := 0x300 } : State).mem.wf = true ∧
    (∃ t, exec (.ldB 0) (withV [(0, 1)] { State.reset with i := 0x300 }) = .next t ∧ t.mem.read 0x302 ≠ State.reset.mem.read 0x302) ∧
    (∃ t, exec (.ldMemVx 15) (withV [(15, 1)] { State.reset with i := 4080 }) = .next t ∧
      t.mem.read 4095 ≠ State.reset.mem.read 4095) :=
  ⟨by decide, ⟨_, rfl, by decide⟩, _, rfl, by decide⟩
theorem witness_PlaneWriters :
    (∃ t, exec .cls { State.reset with fbLo := (Plane.clear 64 32).toggle 0 0, changed := false } = .next t ∧
      t.fbLo ≠ (Plane.clear 64 32).toggle 0 0 ∧ t.changed ≠ false) ∧
    (∃ t, exec (.drw 0 0 1) (poke 0x300 [0x80] { State.reset with i := 0x300 }) = .next t ∧ t.fbLo ≠ Plane.clear 64 32) ∧
    (∃ t, exec (.drw 0 0 1) (poke 0x300 [0x80] { State.reset with i := 0x300, variant := .schip, highRes := true }) = .next t ∧
      t.fbHi ≠ Plane.clear 128 64) :=
  ⟨⟨_, rfl, by decide, by decide⟩, ⟨_, rfl, by decide⟩, _, rfl, by decide⟩
theorem witness_ModeStackAndWaitWriters :
    (∃ t, exec .scr State.reset = .next t ∧ t.scrollX ≠ State.reset.scrollX) ∧
    (∃ t, exec .scl State.reset = .next t ∧ t.scrollX ≠ State.reset.scrollX) ∧
    (∃ t, exec (.scd 15) State.reset = .next t ∧ t.scrollY ≠ State.reset.scrollY) ∧
    (∃ t, exec .high State.reset = .next t ∧ t.highRes ≠ State.reset.highRes) ∧
    (∃ t, exec .low { State.reset with highRes := true } = .next t ∧ t.highRes ≠ true) ∧
    (∃ t, exec .ret { State.reset with sp := 16 } = .next t ∧ t.sp ≠ 16) ∧
    (∃ t, exec (.call 0) State.reset = .next t ∧ t.sp ≠ State.reset.sp ∧ t.stack ≠ State.reset.stack) ∧
    (∃ t, exec (.ldVxK 0) (hostSetKey 3 true State.reset) = .next t ∧
      (t.waitKey ≠ false ∧ t.waitIndex ≠ 0 ∧ t.waiting ≠ false)) :=
  ⟨⟨_, rfl, by decide⟩, ⟨_, rfl, by decide⟩, ⟨_, rfl, by decide⟩, ⟨_, rfl, by decide⟩, ⟨_, rfl, by decide⟩,
    ⟨_, rfl, by decide⟩, ⟨_, rfl, by decide, by decide⟩, _, rfl, by decide, by decide, by decide⟩
theorem witness_ProgramCounterRule :
    (faultOf .ret State.reset ≠ .none ∧ ∃ t, exec .ret State.reset = .next t) ∧
    (faultOf .cls State.reset = .none ∧ ∃ t, exec .cls State.reset = .next t) :=
  ⟨⟨by decide, _, rfl⟩, by decide, _, rfl⟩
theorem witness_ReturnFromSubroutine : 0 < ({ State.reset with sp := 16 } : State).sp.val ∧ State.reset.sp.val = 0 ∧
    0 < ({ State.reset with sp := 1, stack := Vector.replicate 16 4096 } : State).sp.val ∧
    ({ State.reset with sp := 1, stack := Vector.replicate 16 4096 } : State).Inv := by decide
theorem witness_ScrollOffsetsMove : schipOnlyWord 0x00C0 = true ∧ schipOnlyWord 0x00CF = true ∧ schipOnlyWord 0x00FB = true ∧
    schipOnlyWord 0x00FF = true := by decide
theorem witness_UnknownIsNoOperation : State.reset.running = true ∧ State.reset.pc.toNat + 1 ≤ 4095 ∧
    unknownWord State.reset.variant (fetchWord State.reset) = true := by decide
theorem witness_CallPushesAdvancedPc : ({ State.reset with sp := 15 } : State).sp.val < 16 ∧
    ({ State.reset with sp := 16 } : State).sp.val = 16 := by decide
theorem witness_CallThenReturn : ({ State.reset with sp := 15 } : State).sp.val < 16 ∧
    ∃ t, exec (.call 0xFFF) { State.reset with sp := 15 } = .next t := ⟨by decide, _, rfl⟩
/-- The condition of each skip, met and not met; a last digit other than 0. -/
theorem witness_ConditionalSkips : (1 : Nibble) ≠ 0 ∧ (15 : Nibble) ≠ 0 ∧ State.reset.reg 0 = 0x00 ∧ State.reset.reg 0 ≠ 0xFF ∧
    State.reset.reg 0 = State.reset.reg 1 ∧ (withV [(0, 1)] State.reset).reg 0 ≠ (withV [(0, 1)] State.reset).reg 1 := by decide
theorem witness_JumpWithOffset : State.reset.variant = .chip8 ∧ ({ State.reset with variant := .schip } : State).variant = .schip ∧
    (15 : RegIdx).val = (0xFFF : Addr12).toNat / 256 ∧ (0 : RegIdx).val = (0x0FF : Addr12).toNat / 256 := by decide
/-- All three instructions with their functions, under both variants, x at and beside VF. -/
theorem witness_LogicAndTheVFQuirk (x y : RegIdx) :
    ((Instr.orReg x y = .orReg x y ∧ or = or) ∧ (Instr.andReg x y = .andReg x y ∧ and = and) ∧
      (Instr.xorReg x y = .xorReg x y ∧ xor = xor)) ∧
    State.reset.variant = .chip8 ∧ (14 : RegIdx) ≠ vfIdx ∧ ({ State.reset with variant := .schip } : State).variant = .schip :=
  ⟨⟨⟨rfl, rfl⟩, ⟨rfl, rfl⟩, rfl, rfl⟩, by decide, by decide, by decide⟩
theorem witness_AddWithCarry : (14 : RegIdx) ≠ vfIdx ∧
    (withV [(0, 0xFF), (1, 1)] State.reset |> fun s => (s.reg 0).toNat + (s.reg 1).toNat > 255) := by decide
theorem witness_SubtractNoBorrow : (0 : RegIdx) ≠ vfIdx ∧ (State.reset.reg 0).toNat ≥ (State.reset.reg 1).toNat := by decide
theorem witness_ShiftByOne : (0 : RegIdx) ≠ vfIdx ∧ State.reset.variant = .chip8 ∧ 0 = (State.reset.reg 1).toNat ∧
    ({ withV [(0, 0xFF)] State.reset with variant := .schip } : State).variant = .schip ∧
    255 = (({ withV [(0, 0xFF)] State.reset with variant := .schip } : State).reg 0).toNat := by decide
theorem witness_IgnoredInputs : ({ State.reset with variant := .schip } : State).variant = .schip ∧
    State.reset.variant = .chip8 ∧ ∃ t, exec (.drw 0 1 1) { State.reset with i := 0x300 } = .next t :=
  ⟨by decide, by decide, _, rfl⟩
theorem witness_Chip8DrawClosedForm :
    (State.reset.variant = .chip8 ∧ (0 : Nibble).toNat = 0) ∧
    (({ State.reset with i := 4095 } : State).variant = .chip8 ∧ ({ State.reset with i := 4095 } : State).i.toNat + (1 : Nibble).toNat - 1 ≤ 4095) ∧
    ({ State.reset with i := 4081 } : State).i.toNat + (15 : Nibble).toNat - 1 ≤ 4095 := by decide
theorem witness_SchipDrawScrollsAndClips :
    (let s : State := { State.reset with variant := .schip, i := 4081 }
     s.variant = .schip ∧ s.highRes = false ∧ s.i.toNat + (15 : Nibble).toNat - 1 ≤ 4095) ∧
    (let s : State := { State.reset with variant := .schip, highRes := true, i := 4095 }
     s.variant = .schip ∧ s.highRes = true ∧ (1 : Nibble) ≠ 0 ∧ s.i.toNat + (1 : Nibble).toNat - 1 ≤ 4095) ∧
    (let s : State := { State.reset with variant := .schip, highRes := true, i := 4064 }
     s.variant = .schip ∧ s.highRes = true ∧ (0 : Nibble) = 0 ∧ s.i.toNat + 31 ≤ 4095) := by decide
/-- A sprite of one set bit; the first draw leaves the pixel it hits lit. -/
theorem witness_DrawTwiceRestores :
    let s := poke 0x300 [0x80] { State.reset with i := 0x300 }
    (0 : RegIdx) ≠ vfIdx ∧ (1 : RegIdx) ≠ vfIdx ∧ faultOf (.drw 0 1 1) s = .none ∧
    ∃ t, exec (.drw 0 1 1) s = .next t ∧ (0, 0) ∈ drawTargets s 0 1 1 ∧
      (if (geometry s.variant s.highRes 1).hi then t.fbHi.pixel 0 0 else t.fbLo.pixel 0 0) = true :=
  ⟨by decide, by decide, by decide, _, rfl, by decide, by decide⟩
theorem witness_KeySkips : (10 : RegIdx).val = ((withV [(2, 0x1A)] State.reset).reg 2).toNat % 16 ∧
    (15 : RegIdx).val = ((withV [(2, 0xFF)] State.reset).reg 2).toNat % 16 ∧ (0x9F : Byte) ≠ 0x9E ∧ (0x9F : Byte) ≠ 0xA1 ∧
    (hostSetKey 15 true State.reset).keyDown 15 = true ∧ State.reset.keyDown 15 = false := by decide
theorem witness_KeyWaitPhases :
    (State.reset.waitKey = false ∧ ∀ k, State.reset.keyDown k = false) ∧
    (let s := hostSetKey 9 true (hostSetKey 7 true State.reset)
     s.waitKey = false ∧ s.keyDown 7 = true ∧ ∀ j, j < 7 → s.keyDown j = false) ∧
    (let s : State := { hostSetKey 7 true State.reset with waitKey := true, waitIndex := 7 }
     s.waitKey = true ∧ s.keyDown s.waitIndex = true) ∧
    (let s : State := { State.reset with waitKey := true, waitIndex := 15 }
     s.waitKey = true ∧ s.keyDown s.waitIndex = false) := by decide
theorem witness_KeyWaitPressRelease :
    let s := hostSetKey 15 true (at8 0xF30A)
    s.running = true ∧ s.pc.toNat + 1 ≤ 4095 ∧ decode s.variant (fetchWord s) = .ldVxK 3 ∧ s.waitKey = false ∧
      s.keyDown 15 = true ∧ ∀ j, j < 15 → s.keyDown j = false := by decide
theorem witness_BcdStore : State.reset.mem.wf = true ∧ ({ State.reset with i := 4093 } : State).i.toNat + 2 ≤ 4095 ∧
    ({ State.reset with i := 4094 } : State).i.toNat + 2 > 4095 := by decide
theorem witness_BlockStore : State.reset.mem.wf = true ∧ State.reset.variant = .chip8 ∧
    ({ State.reset with variant := .schip } : State).variant = .schip ∧
    ({ State.reset with i := 4080 } : State).i.toNat + (15 : RegIdx).val ≤ 4095 ∧
    ({ State.reset with i := 4081 } : State).i.toNat + (15 : RegIdx).val > 4095 := by decide
theorem witness_BlockLoad : ({ State.reset with i := 4095 } : State).i.toNat + (0 : RegIdx).val ≤ 4095 ∧
    ({ State.reset with i := 4095 } : State).i.toNat + (1 : RegIdx).val > 4095 ∧ (1 : RegIdx) ≤ 1 ∧ (1 : RegIdx) < 2 := by decide
theorem witness_FlagRegisterTransfers : (15 : RegIdx) ≤ 15 ∧ (14 : RegIdx) < 15 := by decide
theorem witness_BlockStoreThenLoad : let s : State := { State.reset with i := 4080 }
    s.mem.wf = true ∧ s.i.toNat + (15 : RegIdx).val ≤ 4095 ∧ ∃ t, exec (.ldMemVx 15) s = .next t :=
  ⟨by decide, by decide, _, rfl⟩
theorem witness_StoreSeenByNextFetch : let s : State := { at8 0xF155 with i := 0x202 }
    s.mem.wf = true ∧ s.running = true ∧ s.pc.toNat + 3 ≤ 4095 ∧ 1 ≤ (1 : RegIdx).val ∧
      decode s.variant (fetchWord s) = .ldMemVx 1 ∧ s.i = s.pc + 2 ∧ s.i.toNat + (1 : RegIdx).val ≤ 4095 := by decide
theorem witness_HostRegisterOperations : (14 : RegIdx) ≠ 15 := by decide
theorem witness_RomLoad : State.reset.mem.wf = true ∧ (List.replicate 3584 (0 : Byte)).length ≤ 3584 ∧
    (List.replicate 3585 (0 : Byte)).length > 3584 :=
  ⟨by decide, by rw [List.length_replicate], by rw [List.length_replicate]; decide⟩
theorem witness_ExitAndResolution : 0x00FD#16 ∈ [0x00FD#16, 0x00FE#16, 0x00FF#16] ∧
    0x00FF#16 ∈ [0x00FD#16, 0x00FE#16, 0x00FF#16] := by decide
/-- The bounds of the address ranges of ResetClears and PowerOnLoadsFonts. -/
theorem witness_ResetClears_PowerOnLoadsFonts : 0x1FF < 0x200 ∧ 0x200 ≤ 0x200 ∧ 79 < 80 ∧ 159 < 160 ∧
    (0x04F < 0x050 ∨ 0x140 ≤ 0x04F) ∧ (0x140 < 0x050 ∨ 0x140 ≤ 0x140) := by decide

end Sys2Proof.Tests
end

section
/-! PROOFS. Memory (20_memory.md). -/

namespace Sys2Proof.Proofs.Memory

open Sys2Proof.Machine

/-- Settles O9: a fetch outside memory raises the fetch fault, and the fault entry (R284) clears `running`, records the
cause and keeps every other field. -/
theorem fetchOutsideMemoryFaults : Obligations.FetchOutsideMemoryFaults := by
  intro s hrun hpc
  calc step s
    _ = .next (s.raise .fetchFault) := step_of_fetchFault hrun hpc
    _ = .next { s with running := false, faultCause := .fetchFault } := rfl

end Sys2Proof.Proofs.Memory
end

section
/-! PROOFS. Encoding (30_encoding.md): what decoding keeps of a word, the variant gate of family 0 (R98), and the rows of
the opcode map (R99, R100). -/

namespace Sys2Proof.Proofs.Encoding

open Sys2Proof.Machine Sys2Proof.Laws

/-! ### The fields of an encoded word, from its digits -/

theorem packA_fieldNnn (a b c d : Nibble) : packA a (fieldNnn b c d) = pack a b c d := by
  apply BitVec.eq_of_toNat_eq
  have happ : (packA a (fieldNnn b c d)).toNat = (a ++ fieldNnn b c d).toNat := rfl
  rw [happ, toNat_append_add, toNat_fieldNnn, toNat_pack]
  omega

theorem packXK_fieldKk (a b c d : Nibble) : packXK a b.toFin (fieldKk c d) = pack a b c d := by
  apply BitVec.eq_of_toNat_eq
  have happ : (packXK a b.toFin (fieldKk c d)).toNat = (a ++ b ++ fieldKk c d).toNat := rfl
  rw [happ, toNat_append_add, toNat_append_add, toNat_fieldKk, toNat_pack]
  omega

theorem packXY_toFin (a b c d : Nibble) : packXY a b.toFin c.toFin d = pack a b c d := rfl

theorem packXF_of_digits (a b : Nibble) {c d : Nibble} {fn : Byte} (h : c = kkHi fn ∧ d = kkLo fn) :
    packXF a b.toFin fn = pack a b c d := by
  rw [h.1, h.2]; exact packXK_eq ..

/-- The family digit that fifteen failed tests leave over. -/
theorem nibble_eq_F {a : Nibble} (h0 : a ≠ 0x0) (h1 : a ≠ 0x1) (h2 : a ≠ 0x2) (h3 : a ≠ 0x3) (h4 : a ≠ 0x4) (h5 : a ≠ 0x5)
    (h6 : a ≠ 0x6) (h7 : a ≠ 0x7) (h8 : a ≠ 0x8) (h9 : a ≠ 0x9) (hA : a ≠ 0xA) (hB : a ≠ 0xB) (hC : a ≠ 0xC) (hD : a ≠ 0xD)
    (hE : a ≠ 0xE) : a = 0xF := by
  bv_omega

/-! ### Encoding what was decoded, family by family -/

/-- Encoding looks through one test of the decoder: each branch has to give the word back. -/
theorem encode_ite {c : Prop} [Decidable c] {i j : Instr} {w : Word} (hi : c → encode i = w) (hj : ¬c → encode j = w) :
    encode (if c then i else j) = w := by
  by_cases h : c
  · rw [if_pos h, hi h]
  · rw [if_neg h, hj h]

theorem encode_decodeFam0 (v : Variant) (b c d : Nibble) : encode (decodeFam0 v b c d) = pack 0x0 b c d := by
  refine encode_ite (fun ⟨hb, hc, hd⟩ => by rw [hb, hc, hd]; rfl) fun _ => ?_
  refine encode_ite (fun ⟨hb, hc, hd⟩ => by rw [hb, hc, hd]; rfl) fun _ => ?_
  refine encode_ite (fun ⟨_, hb, hc⟩ => by rw [hb, hc]; rfl) fun _ => ?_
  iterate 5 refine encode_ite (fun ⟨_, hb, hc, hd⟩ => by rw [hb, hc, hd]; rfl) fun _ => ?_
  rfl

theorem encode_decodeFam5 (b c d : Nibble) : encode (decodeFam5 b c d) = pack 0x5 b c d :=
  encode_ite (fun hd => by rw [hd]; rfl) fun _ => rfl

theorem encode_decodeFam8 (b c d : Nibble) : encode (decodeFam8 b c d) = pack 0x8 b c d := by
  iterate 9 refine encode_ite (fun hd => by rw [hd]; rfl) fun _ => ?_
  rfl

theorem encode_decodeFam9 (b c d : Nibble) : encode (decodeFam9 b c d) = pack 0x9 b c d :=
  encode_ite (fun hd => by rw [hd]; rfl) fun _ => rfl

theorem encode_decodeFamE (b c d : Nibble) : encode (decodeFamE b c d) = pack 0xE b c d := by
  iterate 2 refine encode_ite (fun hcd => packXF_of_digits _ _ hcd) fun _ => ?_
  rfl

theorem encode_decodeFamF (b c d : Nibble) : encode (decodeFamF b c d) = pack 0xF b c d := by
  iterate 12 refine encode_ite (fun hcd => packXF_of_digits _ _ hcd) fun _ => ?_
  rfl

theorem encode_decodeDigits (v : Variant) (a b c d : Nibble) : encode (decodeDigits v a b c d) = pack a b c d := by
  refine encode_ite (fun h => h ▸ encode_decodeFam0 ..) fun h0 => ?_
  refine encode_ite (fun h => h ▸ packA_fieldNnn ..) fun h1 => ?_
  refine encode_ite (fun h => h ▸ packA_fieldNnn ..) fun h2 => ?_
  refine encode_ite (fun h => h ▸ packXK_fieldKk ..) fun h3 => ?_
  refine encode_ite (fun h => h ▸ packXK_fieldKk ..) fun h4 => ?_
  refine encode_ite (fun h => h ▸ encode_decodeFam5 ..) fun h5 => ?_
  refine encode_ite (fun h => h ▸ packXK_fieldKk ..) fun h6 => ?_
  refine encode_ite (fun h => h ▸ packXK_fieldKk ..) fun h7 => ?_
  refine encode_ite (fun h => h ▸ encode_decodeFam8 ..) fun h8 => ?_
  refine encode_ite (fun h => h ▸ encode_decodeFam9 ..) fun h9 => ?_
  refine encode_ite (fun h => h ▸ packA_fieldNnn ..) fun hA => ?_
  refine encode_ite (fun h => h ▸ packA_fieldNnn ..) fun hB => ?_
  refine encode_ite (fun h => h ▸ packXK_fieldKk ..) fun hC => ?_
  refine encode_ite (fun h => h ▸ packXY_toFin ..) fun hD => ?_
  refine encode_ite (fun h => h ▸ encode_decodeFamE ..) fun hE => ?_
  rw [encode_decodeFamF, nibble_eq_F h0 h1 h2 h3 h4 h5 h6 h7 h8 h9 hA hB hC hD hE]

/-- Decoding drops no bit of the word (R97). -/
theorem encode_decode (v : Variant) (w : Word) : encode (decode v w) = w := by
  rw [decode, encode_decodeDigits, pack_nibs]

/-! ### The variant gate (R98) -/

/-- The word of an SCHIP-only row is UNKNOWN under CHIP8. -/
theorem decode_chip8_encode_of_schipOnly {i : Instr} (h : (opcodePattern i).schipOnly = true) :
    decode .chip8 (encode i) = .unknown (encode i) := by
  cases i with
  | scd n => exact decode_pack .chip8 0x0 0x0 0xC n
  | scr | scl | exit | low | high => rfl
  | _ => exact absurd h Bool.false_ne_true

/-- Outside family 0 the variant is not looked at. -/
theorem decodeDigits_variant_irrel {a : Nibble} (ha : a ≠ 0x0) (v v' : Variant) (b c d : Nibble) :
    decodeDigits v a b c d = decodeDigits v' a b c d := by
  unfold decodeDigits
  rw [if_neg ha, if_neg ha]

/-- Within family 0 the variants differ only at 00Cn and at 00FB to 00FF. -/
theorem decodeFam0_chip8_eq_schip {b c d : Nibble} (hC : ¬(b = 0x0 ∧ c = 0xC))
    (hF : b = 0x0 → c = 0xF → d ∉ [0xB#4, 0xC#4, 0xD#4, 0xE#4, 0xF#4]) :
    decodeFam0 .chip8 b c d = decodeFam0 .schip b c d := by
  by_cases hb : b = 0x0
  · by_cases hc : c = 0xF
    · have hd := hF hb hc
      simp_all [decodeFam0]
    · simp_all [decodeFam0]
  · simp_all [decodeFam0]

theorem decode_chip8_eq_schip {w : Word} (hC : ∀ n : Nibble, w ≠ pack 0x0 0x0 0xC n)
    (hF : w ∉ [0x00FB#16, 0x00FC#16, 0x00FD#16, 0x00FE#16, 0x00FF#16]) : decode .chip8 w = decode .schip w := by
  obtain ⟨a, b, c, d, rfl⟩ : ∃ a b c d, w = pack a b c d := ⟨_, _, _, _, (pack_nibs w).symm⟩
  rw [decode_pack, decode_pack]
  by_cases ha : a = 0x0
  · subst ha
    refine decodeFam0_chip8_eq_schip (fun ⟨hb, hc⟩ => hC d (by rw [hb, hc])) fun hb hc hd => hF ?_
    rw [hb, hc]
    exact List.mem_map_of_mem (f := pack 0x0 0x0 0xF) hd
  · exact decodeDigits_variant_irrel ha ..

/-- Settles O6: the six rows decode under SCHIP, their words are UNKNOWN under CHIP8, and the digits of every other word
fail all six tests of the variant. -/
theorem schipOnlyWordsGated : Obligations.SchipOnlyWordsGated := by
  refine ⟨fun n => decode_pack .schip 0x0 0x0 0xC n, rfl, rfl, rfl, rfl, rfl, fun n => ?_, ?_,
    fun w => decode_chip8_eq_schip⟩
  · exact decode_chip8_encode_of_schipOnly (i := .scd n) rfl
  · intro w hw
    obtain ⟨i, hi, rfl⟩ := List.mem_map.1 (show w ∈ [Instr.scr, .scl, .exit, .low, .high].map encode from hw)
    exact decode_chip8_encode_of_schipOnly
      ((by decide : ∀ i ∈ [Instr.scr, .scl, .exit, .low, .high], (opcodePattern i).schipOnly = true) i hi)

/-! ### A word that matches a row decodes to that row -/

/-- The decoder reads a word that matches the row as an instruction of the row. -/
def RowDecodes (p : OpcodePattern) : Prop :=
  ∀ v w, p.matchesWord v w = true → opcodePattern (decode v w) = p

theorem matchesWord_iff {p : OpcodePattern} {v : Variant} {w : Word} :
    p.matchesWord v w = true ↔ (p.schipOnly = true → v = .schip) ∧ w &&& p.mask = p.bits := by
  cases h : p.schipOnly <;> simp [OpcodePattern.matchesWord, h]

/-- A match, digit by digit: every masked digit of the word is the digit of the row. -/
theorem digits_of_and_eq {w mask bits : Word} (h : w &&& mask = bits) :
    nib3 w &&& nib3 mask = nib3 bits ∧ nib2 w &&& nib2 mask = nib2 bits ∧
      nib1 w &&& nib1 mask = nib1 bits ∧ nib0 w &&& nib0 mask = nib0 bits := by
  rw [← h]
  exact ⟨BitVec.extractLsb'_and.symm, BitVec.extractLsb'_and.symm, BitVec.extractLsb'_and.symm,
    BitVec.extractLsb'_and.symm⟩

/-- A digit under the mask F is fixed. -/
theorem eq_of_and_F {a m a' : Nibble} (h : a &&& m = a') (hm : m = 0xF) : a = a' := by
  rw [← h, hm]; exact BitVec.and_allOnes.symm

/-- Rows that fix the family digit alone (formats A, XK and XYN of R92). -/
theorem rowDecodes_of_family {bits : Word} {g : Bool}
    (hdec : ∀ v b c d, opcodePattern (decodeDigits v (nib3 bits) b c d) = ⟨0xF000, bits, g⟩) :
    RowDecodes ⟨0xF000, bits, g⟩ := by
  intro v w h
  obtain ⟨-, hbits : w &&& 0xF000 = bits⟩ := matchesWord_iff.1 h
  obtain ⟨h3, -, -, -⟩ := digits_of_and_eq hbits
  rw [decode, eq_of_and_F h3 rfl, hdec]

/-- Rows that fix the family digit and the last digit (format XY of R92). -/
theorem rowDecodes_of_family_last {bits : Word} {g : Bool}
    (hdec : ∀ v b c, opcodePattern (decodeDigits v (nib3 bits) b c (nib0 bits)) = ⟨0xF00F, bits, g⟩) :
    RowDecodes ⟨0xF00F, bits, g⟩ := by
  intro v w h
  obtain ⟨-, hbits : w &&& 0xF00F = bits⟩ := matchesWord_iff.1 h
  obtain ⟨h3, -, -, h0⟩ := digits_of_and_eq hbits
  rw [decode, eq_of_and_F h3 rfl, eq_of_and_F h0 rfl, hdec]

/-- Rows that fix the family digit and the low byte (format XF of R92). -/
theorem rowDecodes_of_family_low {bits : Word} {g : Bool}
    (hdec : ∀ v b, opcodePattern (decodeDigits v (nib3 bits) b (nib1 bits) (nib0 bits)) = ⟨0xF0FF, bits, g⟩) :
    RowDecodes ⟨0xF0FF, bits, g⟩ := by
  intro v w h
  obtain ⟨-, hbits : w &&& 0xF0FF = bits⟩ := matchesWord_iff.1 h
  obtain ⟨h3, -, h1, h0⟩ := digits_of_and_eq hbits
  rw [decode, eq_of_and_F h3 rfl, eq_of_and_F h1 rfl, eq_of_and_F h0 rfl, hdec]

/-- The row 00Cn, whose last digit is free. -/
theorem rowDecodes_scd (n : Nibble) : RowDecodes (opcodePattern (.scd n)) := by
  intro v w h
  obtain ⟨hv, hbits : w &&& 0xFFF0 = 0x00C0⟩ := matchesWord_iff.1 h
  obtain ⟨h3, h2, h1, -⟩ := digits_of_and_eq hbits
  rw [decode, hv rfl, eq_of_and_F h3 rfl, eq_of_and_F h2 rfl, eq_of_and_F h1 rfl]
  rfl

/-- Rows that fix all four digits. -/
theorem rowDecodes_of_word {bits : Word} {g : Bool}
    (hdec : ∀ v, (g = true → v = .schip) → opcodePattern (decode v bits) = ⟨0xFFFF, bits, g⟩) :
    RowDecodes ⟨0xFFFF, bits, g⟩ := by
  intro v w h
  obtain ⟨hv, hbits⟩ := matchesWord_iff.1 h
  have hw : w = bits := BitVec.and_allOnes.symm.trans hbits
  rw [hw, hdec v hv]

theorem rowDecodes_opcodePattern {i : Instr} (hi : ∀ w, i ≠ .unknown w) : RowDecodes (opcodePattern i) := by
  cases i with
  | cls | ret => exact rowDecodes_of_word fun v _ => by cases v <;> rfl
  | scd n => exact rowDecodes_scd n
  | scr | scl | exit | low | high => exact rowDecodes_of_word fun v hv => by rw [hv rfl]; rfl
  | jp _ | call _ | seImm _ _ | sneImm _ _ | ldImm _ _ | addImm _ _ | ldI _ | jpV0 _ | rnd _ _ | drw _ _ _ =>
    exact rowDecodes_of_family fun _ _ _ _ => rfl
  | seReg _ _ | ldReg _ _ | orReg _ _ | andReg _ _ | xorReg _ _ | addReg _ _ | sub _ _ | shr _ _ | subn _ _ | shl _ _
  | sneReg _ _ => exact rowDecodes_of_family_last fun _ _ _ => rfl
  | skp _ | sknp _ | ldVxDt _ | ldVxK _ | ldDtVx _ | ldStVx _ | addI _ | ldF _ | ldHf _ | ldB _ | ldMemVx _ | ldVxMem _
  | ldRVx _ | ldVxR _ => exact rowDecodes_of_family_low fun _ _ => rfl
  | unknown w => exact absurd rfl (hi w)

theorem rowDecodes_of_mem_opcodeMap : ∀ p ∈ opcodeMap, RowDecodes p := by
  simp only [opcodeMap, List.forall_mem_append, List.forall_mem_map]
  refine ⟨⟨⟨⟨?_, ?_⟩, ?_⟩, ?_⟩, ?_⟩ <;>
  · intro i hi
    refine rowDecodes_opcodePattern ?_
    rintro w rfl
    simp at hi

/-! ### A decoded instruction stands in a row that its word matches -/

theorem opcodePattern_mem_opcodeMap {i : Instr} (hi : ∀ w, i ≠ .unknown w) : opcodePattern i ∈ opcodeMap := by
  cases i with
  | unknown w => exact absurd rfl (hi w)
  | _ => dsimp only [opcodePattern]; decide

theorem wellFormed_of_ne_unknown {v : Variant} {i : Instr} (hi : ∀ w, i ≠ .unknown w)
    (hv : (opcodePattern i).schipOnly = true → v = .schip) : i.wellFormed v = true := by
  cases i with
  | scd _ | scr | scl | exit | low | high => rw [hv rfl]; rfl
  | unknown w => exact absurd rfl (hi w)
  | _ => rfl

/-- The decoder answers an SCHIP-only instruction under SCHIP alone (R98). -/
theorem variant_of_decode_schipOnly {v : Variant} {w : Word} (h : (opcodePattern (decode v w)).schipOnly = true) :
    v = .schip := by
  cases v with
  | schip => rfl
  | chip8 =>
    have hunknown := decode_chip8_encode_of_schipOnly h
    rw [encode_decode] at hunknown
    rw [hunknown] at h
    exact absurd h Bool.false_ne_true

theorem matchesWord_encode (i : Instr) : OpcodeRow.Statement i := by
  cases i
  exacts [OpcodeRow.cls, OpcodeRow.ret, OpcodeRow.scd _, OpcodeRow.scr, OpcodeRow.scl, OpcodeRow.exit, OpcodeRow.low,
    OpcodeRow.high, OpcodeRow.jp _, OpcodeRow.call _, OpcodeRow.seImm _ _, OpcodeRow.sneImm _ _, OpcodeRow.seReg _ _,
    OpcodeRow.ldImm _ _, OpcodeRow.addImm _ _, OpcodeRow.ldReg _ _, OpcodeRow.orReg _ _, OpcodeRow.andReg _ _,
    OpcodeRow.xorReg _ _, OpcodeRow.addReg _ _, OpcodeRow.sub _ _, OpcodeRow.shr _ _, OpcodeRow.subn _ _,
    OpcodeRow.shl _ _, OpcodeRow.sneReg _ _, OpcodeRow.ldI _, OpcodeRow.jpV0 _, OpcodeRow.rnd _ _,
    OpcodeRow.drw _ _ _, OpcodeRow.skp _, OpcodeRow.sknp _, OpcodeRow.ldVxDt _, OpcodeRow.ldVxK _,
    OpcodeRow.ldDtVx _, OpcodeRow.ldStVx _, OpcodeRow.addI _, OpcodeRow.ldF _, OpcodeRow.ldHf _, OpcodeRow.ldB _,
    OpcodeRow.ldMemVx _, OpcodeRow.ldVxMem _, OpcodeRow.ldRVx _, OpcodeRow.ldVxR _, OpcodeRow.unknown _]

theorem matchesWord_decode {v : Variant} {w : Word} (hi : ∀ w', decode v w ≠ .unknown w') :
    (opcodePattern (decode v w)).matchesWord v w = true := by
  have hwf : (decode v w).wellFormed v = true := wellFormed_of_ne_unknown hi variant_of_decode_schipOnly
  simpa only [encode_decode] using matchesWord_encode (decode v w) v hwf

theorem eq_of_decode_eq_unknown {v : Variant} {w w' : Word} (h : decode v w = .unknown w') : w' = w := by
  simpa only [h, encode] using encode_decode v w

/-- Settles O3: each row decodes to itself by its format; and were a word that matches no row decoded to an instruction
other than UNKNOWN, it would match that instruction's own row. -/
theorem decodeFollowsOpcodeMap : Obligations.DecodeFollowsOpcodeMap := by
  refine fun v w => ⟨fun p hp => rowDecodes_of_mem_opcodeMap p hp v w, fun hno => ?_⟩
  by_cases hi : ∃ w', decode v w = .unknown w'
  · obtain ⟨w', hw'⟩ := hi
    rw [hw', eq_of_decode_eq_unknown hw']
  · have hi' := not_exists.1 hi
    have hmatch := matchesWord_decode hi'
    rw [hno _ (opcodePattern_mem_opcodeMap hi')] at hmatch
    exact absurd hmatch Bool.false_ne_true

/-! ### The step (R95) -/

/-- Settles O10: the first test of the step is on `running`. -/
theorem stoppedMachineIgnoresSteps : Obligations.StoppedMachineIgnoresSteps :=
  fun _ hstop => step_of_stopped hstop

end Sys2Proof.Proofs.Encoding
end

section
/-! PROOFS. Family 0 and the UNKNOWN word (40_family0_control.md): the listed words of R101 decode to UNKNOWN, and what
each meaning of the family changes and leaves. -/

namespace Sys2Proof.Proofs.Control

open Sys2Proof.Machine Sys2Proof.Proofs.Encoding

/-! ### The listed UNKNOWN words (30_encoding.md R101) -/

/-- Ten families hold no UNKNOWN word. -/
theorem unknownWord_of_nib3 {v : Variant} {w : Word}
    (h : nib3 w ∈ [0x1#4, 0x2#4, 0x3#4, 0x4#4, 0x6#4, 0x7#4, 0xA#4, 0xB#4, 0xC#4, 0xD#4]) :
    unknownWord v w = false := by
  have hfam : w.extractLsb' 12 4 = nib3 w := rfl
  rw [unknownWord, hfam]
  generalize nib3 w = a at h
  fin_cases h <;> rfl

/-- In families 5, 8 and 9 the list reads the last digit alone. -/
theorem unknownWord_packXY {v : Variant} {a : Nibble} (ha : a ∈ [0x5#4, 0x8#4, 0x9#4]) (x y : RegIdx) (d : Nibble) :
    unknownWord v (packXY a x y d) = unknownWord v (packXY a 0 0 d) := by
  have hfam (x y : RegIdx) : (packXY a x y d).extractLsb' 12 4 = a := nib3_pack ..
  have hlast (x y : RegIdx) : (packXY a x y d).extractLsb' 0 4 = d := nib0_pack ..
  rw [unknownWord, unknownWord, hfam, hfam, hlast, hlast]
  fin_cases ha <;> rfl

/-- In families E and F the list reads the low byte alone. -/
theorem unknownWord_packXF {v : Variant} {a : Nibble} (ha : a ∈ [0xE#4, 0xF#4]) (x : RegIdx) (fn : Byte) :
    unknownWord v (packXF a x fn) = unknownWord v (packXF a 0 fn) := by
  have hfam (x : RegIdx) : (packXF a x fn).extractLsb' 12 4 = a := by
    rw [packXF, packXK_eq]; exact nib3_pack ..
  have hlow (x : RegIdx) : (packXF a x fn).extractLsb' 0 8 = fn := BitVec.extractLsb'_append_eq_right
  rw [unknownWord, unknownWord, hfam, hfam, hlow, hlow]
  fin_cases ha <;> rfl

/-- No word of an instruction is listed. -/
theorem unknownWord_encode {v : Variant} {i : Instr} (hi : ∀ w, i ≠ .unknown w)
    (hv : (opcodePattern i).schipOnly = true → v = .schip) : unknownWord v (encode i) = false := by
  cases i with
  | cls | ret => rfl
  | scd n => rw [hv rfl]; exact (by decide : ∀ n, unknownWord .schip (pack 0x0 0x0 0xC n) = false) n
  | scr | scl | exit | low | high => rw [hv rfl]; rfl
  | jp nnn | call nnn | ldI nnn | jpV0 nnn =>
    refine unknownWord_of_nib3 ?_
    rw [encode, packA_eq, nib3_pack]; decide
  | seImm x kk | sneImm x kk | ldImm x kk | addImm x kk | rnd x kk =>
    refine unknownWord_of_nib3 ?_
    rw [encode, packXK_eq, nib3_pack]; decide
  | drw x y n =>
    refine unknownWord_of_nib3 ?_
    rw [encode, packXY, nib3_pack]; decide
  | seReg x y | ldReg x y | orReg x y | andReg x y | xorReg x y | addReg x y | sub x y | shr x y | subn x y | shl x y
  | sneReg x y =>
    exact unknownWord_packXY (by decide) x y _
  | skp x | sknp x | ldVxDt x | ldVxK x | ldDtVx x | ldStVx x | addI x | ldF x | ldHf x | ldB x | ldMemVx x | ldVxMem x
  | ldRVx x | ldVxR x =>
    exact unknownWord_packXF (by decide) x _
  | unknown w => exact absurd rfl (hi w)

/-- A listed word decodes to UNKNOWN: an instruction would encode back to the word. -/
theorem decode_of_unknownWord {v : Variant} {w : Word} (h : unknownWord v w = true) : decode v w = .unknown w := by
  by_cases hi : ∃ w', decode v w = .unknown w'
  · obtain ⟨w', hw'⟩ := hi
    rw [hw', eq_of_decode_eq_unknown hw']
  · have hknown := unknownWord_encode (not_exists.1 hi) variant_of_decode_schipOnly
    rw [encode_decode, h] at hknown
    exact absurd hknown.symm Bool.false_ne_true

/-- Under CHIP8 the 21 words of R98 are listed: they lie in family 0 and are neither 00E0 nor 00EE. -/
theorem unknownWord_chip8_of_schipOnlyWord {w : Word} (h : schipOnlyWord w = true) : unknownWord .chip8 w = true := by
  have hrange : (0x00C0 ≤ w ∧ w ≤ 0x00CF) ∨ (0x00FB ≤ w ∧ w ≤ 0x00FF) := by simpa [schipOnlyWord] using h
  have hfam : w.extractLsb' 12 4 = 0x0 := by
    have hle : w.toNat ≤ 0x00FF := by bv_omega
    have hdigit : (nib3 w).toNat = 0 := by rw [toNat_nib3]; omega
    exact BitVec.eq_of_toNat_eq hdigit
  have hcls : w ≠ 0x00E0#16 := by bv_omega
  have hret : w ≠ 0x00EE#16 := by bv_omega
  simp [unknownWord, hfam, hcls, hret]

/-! ### The meanings -/

/-- Settles O23: a cleared plane has no lit pixel (`Plane.pixel_clear`), and the rest is the advanced state. -/
theorem clearDisplay : Obligations.ClearDisplay :=
  ⟨fun v => by cases v <;> rfl, fun s =>
    ⟨_, rfl, Plane.pixel_clear 64 32, Plane.pixel_clear 128 64, rfl, rfl, rfl, fun _ => rfl⟩⟩

/-- RET in terms of the pop (R122). -/
theorem exec_ret_of_pop {s t : State} {w : Word} (h : s.pop = some (w, t)) : exec .ret s = .next (t.setPc w) := by
  rw [exec, execRet, h]

theorem exec_ret_of_empty {s : State} (h : s.pop = none) : exec .ret s = .next (s.raise .stackUnderflow) := by
  rw [exec, execRet, h]

/-- Every valid stack entry of a state that meets the invariant is a pc0 + 2 (R122). -/
theorem top_entry_bounds {s : State} (hinv : s.Inv) (hsp : 0 < s.sp.val) {w : Word}
    (htop : s.stack[s.sp.val - 1]? = some w) : 2 ≤ w.toNat ∧ w.toNat ≤ 4096 := by
  obtain ⟨-, -, hstack, -, -⟩ := hinv
  obtain ⟨hlt, rfl⟩ := Vector.getElem?_eq_some_iff.1 htop
  exact hstack ⟨s.sp.val - 1, hlt⟩ (Nat.sub_one_lt hsp.ne')

/-- Settles O24, by the two answers of the pop. -/
theorem returnFromSubroutine : Obligations.ReturnFromSubroutine := by
  refine ⟨fun v => by cases v <;> rfl, fun s hsp => ?_, fun s hsp => ?_⟩
  · obtain ⟨h0, -⟩ | ⟨-, w, t, hpop, htop, hdec, ht⟩ := s.pop_cases
    · omega
    · have hframe : t.setPc w = { s with pc := w, sp := t.sp } := congrArg (·.setPc w) ht
      have hmem : t.mem = s.mem := by rw [ht]
      exact ⟨t.setPc w, exec_ret_of_pop hpop, hdec, htop, hframe, fun a => congrArg (·.read a) hmem,
        fun hinv => top_entry_bounds hinv hsp htop⟩
  · obtain ⟨-, hpop⟩ | ⟨hpos, -⟩ := s.pop_cases
    · exact exec_ret_of_empty hpop
    · omega

/-- Settles O25: the sum and the difference of 16-bit words are the wrapped ones of their signed values, and 0 to 15 and 4
are not negative as such words. -/
theorem scrollOffsetsMove : Obligations.ScrollOffsetsMove := by
  refine ⟨fun n => decode_pack .schip 0x0 0x0 0xC n, rfl, rfl,
    fun w hw => decode_of_unknownWord (unknownWord_chip8_of_schipOnlyWord hw), fun s => ⟨fun n => ?_, ?_, ?_⟩⟩
  · have hn : (n.setWidth 16).toInt = n.toNat := by revert n; decide
    refine ⟨_, rfl, ?_, rfl, rfl, fun _ => rfl⟩
    calc (s.scrollY + n.setWidth 16).toInt
      _ = (s.scrollY.toInt + (n.setWidth 16).toInt).bmod (2 ^ 16) := BitVec.toInt_add ..
      _ = (s.scrollY.toInt + n.toNat).bmod (2 ^ 16) := by rw [hn]
  · exact ⟨_, rfl, BitVec.toInt_add s.scrollX 4, rfl, rfl, fun _ => rfl⟩
  · exact ⟨_, rfl, BitVec.toInt_sub (x := s.scrollX) (y := 4), rfl, rfl, fun _ => rfl⟩

/-- Settles O26: the state EXIT leaves is stopped, so a further step keeps it (R95). -/
theorem exitAndResolution : Obligations.ExitAndResolution := by
  refine ⟨rfl, rfl, rfl, fun w hw => ?_, fun s => ⟨?_, ?_, ?_⟩⟩
  · have hgated : [0x00FD#16, 0x00FE#16, 0x00FF#16].all schipOnlyWord = true := by decide
    exact decode_of_unknownWord (unknownWord_chip8_of_schipOnlyWord (List.all_eq_true.1 hgated w hw))
  · exact ⟨_, rfl, rfl, rfl, rfl, rfl, fun _ => rfl, step_of_stopped rfl⟩
  · exact ⟨_, rfl, rfl, rfl, rfl, fun _ => rfl⟩
  · exact ⟨_, rfl, rfl, rfl, rfl, fun _ => rfl⟩

theorem exec_unknown (w : Word) (s : State) : exec (.unknown w) s = .next s.advance := rfl

theorem onlyPc_advance (s : State) : OnlyPc s s.advance := ⟨rfl, fun _ => rfl⟩

/-- Settles O27: a listed word decodes to UNKNOWN under the variant of the state. -/
theorem unknownIsNoOperation : Obligations.UnknownIsNoOperation := by
  refine ⟨fun w s => ⟨s.advance, exec_unknown w s, rfl, onlyPc_advance s⟩, fun s hrun hpc hw => ?_⟩
  refine ⟨s.advance, ?_, rfl, onlyPc_advance s⟩
  calc step s
    _ = exec (decode s.variant (fetchWord s)) s := step_of_fetch hrun hpc
    _ = exec (.unknown (fetchWord s)) s := by rw [decode_of_unknownWord hw]
    _ = .next s.advance := exec_unknown ..

end Sys2Proof.Proofs.Control
end


section
/-! PROOFS. Jump, call and conditional skip (41_jump_call_skip.md): how the words of formats A, XK and XY decode, and
what each meaning changes and leaves. -/

namespace Sys2Proof.Proofs.JumpCallSkip

open Sys2Proof.Machine Sys2Proof.Proofs.Control

/-! ### Decoding by format (30_encoding.md R92) -/

theorem decodesTo_packA {a : Nibble} {f : Addr12 → Instr}
    (hdec : ∀ v b c d, decodeDigits v a b c d = f (fieldNnn b c d)) (nnn : Addr12) : DecodesTo (packA a nnn) (f nnn) := by
  intro v
  rw [packA_eq, decode_pack, hdec, fieldNnn_digits]

theorem decodesTo_packXK {a : Nibble} {f : RegIdx → Byte → Instr}
    (hdec : ∀ v b c d, decodeDigits v a b c d = f b.toFin (fieldKk c d)) (x : RegIdx) (kk : Byte) :
    DecodesTo (packXK a x kk) (f x kk) := by
  intro v
  rw [packXK_eq, decode_pack, hdec, fieldKk_digits, toFin_digitOf]

theorem decodesTo_packXY {a d : Nibble} {f : RegIdx → RegIdx → Instr}
    (hdec : ∀ v b c, decodeDigits v a b c d = f b.toFin c.toFin) (x y : RegIdx) : DecodesTo (packXY a x y d) (f x y) := by
  intro v
  rw [packXY, decode_pack, hdec, toFin_digitOf, toFin_digitOf]

theorem decodeFam5_of_ne_zero {d : Nibble} (hd : d ≠ 0) (b c : Nibble) :
    decodeFam5 b c d = .unknown (pack 0x5 b c d) := if_neg hd

theorem decodeFam9_of_ne_zero {d : Nibble} (hd : d ≠ 0) (b c : Nibble) :
    decodeFam9 b c d = .unknown (pack 0x9 b c d) := if_neg hd

/-! ### Jump and call -/

theorem exec_jp (nnn : Addr12) (s : State) : exec (.jp nnn) s = .next (s.advance.setPc (addrOf nnn)) := rfl

/-- Settles O28: the target replaces the advanced PC. -/
theorem jumpAbsolute : Obligations.JumpAbsolute := fun nnn s =>
  ⟨decodesTo_packA (fun _ _ _ _ => rfl) nnn, _, exec_jp nnn s, addrOf_toNat nnn, rfl, fun _ => rfl⟩

/-- CALL in terms of the push (R142). -/
theorem exec_call_of_push {s t : State} (nnn : Addr12) (h : s.push (s.pc + 2) = some t) :
    exec (.call nnn) s = .next (t.setPc (addrOf nnn)) := by
  rw [exec, execCall, State.advance_pc, h]

theorem exec_call_of_full {s : State} (nnn : Addr12) (h : s.push (s.pc + 2) = none) :
    exec (.call nnn) s = .next (s.raise .stackOverflow) := by
  rw [exec, execCall, State.advance_pc, h]

/-- A store written at one position, read through `getElem?`. -/
theorem getElem?_of_written {α : Type} {n : Nat} {old new : Vector α n} {p : Nat} {w : α} (hp : p < n)
    (h : ∀ k (hk : k < n), new[k] = if k = p then w else old[k]) :
    new[p]? = some w ∧ ∀ k, k ≠ p → new[k]? = old[k]? := by
  refine ⟨?_, fun k hne => ?_⟩
  · rw [Vector.getElem?_eq_getElem hp, h, if_pos rfl]
  · by_cases hk : k < n
    · rw [Vector.getElem?_eq_getElem hk, Vector.getElem?_eq_getElem hk, h, if_neg hne]
    · rw [Vector.getElem?_eq_none (not_lt.1 hk), Vector.getElem?_eq_none (not_lt.1 hk)]

/-- Settles O29, by the two answers of the push. -/
theorem callPushesAdvancedPc : Obligations.CallPushesAdvancedPc := by
  refine fun nnn s => ⟨decodesTo_packA (fun _ _ _ _ => rfl) nnn, fun hsp => ?_, fun hsp => ?_⟩
  · obtain ⟨hfull, -⟩ | ⟨-, t, hpush, hinc, ht, hwritten⟩ := s.push_cases (s.pc + 2)
    · omega
    · obtain ⟨hentry, hothers⟩ := getElem?_of_written hsp hwritten
      have hframe : t.setPc (addrOf nnn) = { s with pc := addrOf nnn, sp := t.sp, stack := t.stack } :=
        congrArg (·.setPc (addrOf nnn)) ht
      have hmem : t.mem = s.mem := by rw [ht]
      exact ⟨t.setPc (addrOf nnn), exec_call_of_push nnn hpush, addrOf_toNat nnn, hinc, hentry, hothers, hframe,
        fun a => congrArg (·.read a) hmem⟩
  · obtain ⟨-, hpush⟩ | ⟨hroom, -⟩ := s.push_cases (s.pc + 2)
    · exact exec_call_of_full nnn hpush
    · omega

/-! ### Conditional skips (R139) -/

theorem onlyPc_skipIf (s : State) (b : Bool) : OnlyPc s (s.skipIf b) := by
  cases b with
  | false => exact onlyPc_advance s
  | true => exact ⟨rfl, fun _ => rfl⟩

/-- An instruction that ends in `skipIf` skips on the condition its test decides. -/
theorem skips_of_exec {i : Instr} {s : State} {b : Bool} {c : Prop} (hexec : exec i s = .next (s.skipIf b))
    (hb : b = true ↔ c) : Skips i s c := by
  refine ⟨s.skipIf b, hexec, fun hc => ?_, fun hc => ?_, onlyPc_skipIf s b⟩
  · rw [State.skipIf_pc, if_pos (hb.2 hc)]
    exact BitVec.add_assoc s.pc 2 2
  · rw [State.skipIf_pc, if_neg (mt hb.1 hc)]

/-- Settles O31: each of the four ends in `skipIf` with its comparison as the test, and the decoder of families 5 and 9
tests the last digit for 0. -/
theorem conditionalSkips : Obligations.ConditionalSkips := by
  refine fun x y kk s => ⟨?_, ?_, ?_, ?_, fun d hd => ⟨?_, ?_⟩, ?_, ?_, ?_, ?_⟩
  · exact decodesTo_packXK (fun _ _ _ _ => rfl) x kk
  · exact decodesTo_packXK (fun _ _ _ _ => rfl) x kk
  · exact decodesTo_packXY (fun _ _ _ => rfl) x y
  · exact decodesTo_packXY (fun _ _ _ => rfl) x y
  · exact fun v => (decode_pack v ..).trans (decodeFam5_of_ne_zero hd ..)
  · exact fun v => (decode_pack v ..).trans (decodeFam9_of_ne_zero hd ..)
  · exact skips_of_exec rfl beq_iff_eq
  · exact skips_of_exec rfl bne_iff_ne
  · exact skips_of_exec rfl beq_iff_eq
  · exact skips_of_exec rfl bne_iff_ne

end Sys2Proof.Proofs.JumpCallSkip
end

section
/-! PROOFS. Load, add and the ALU (42_load_alu.md): the frame of register writes, the three shapes of write-back (a
result alone; result then flag, R160; result then the VF quirk, R166), and each result and flag as a number. -/

namespace Sys2Proof.Proofs.LoadAlu

open Sys2Proof.Machine Sys2Proof.Proofs.JumpCallSkip

/-! ### The frame of register writes -/

theorem onlyPcRegs_advance (xs : List RegIdx) (s : State) : OnlyPcRegs xs s s.advance := ⟨rfl, fun _ _ => rfl, fun _ => rfl⟩

/-- A write to a named register stays inside the frame. -/
theorem onlyPcRegs_setReg {xs : List RegIdx} {s t : State} {x : RegIdx} (h : OnlyPcRegs xs s t) (hx : x ∈ xs) (b : Byte) :
    OnlyPcRegs xs s (t.setReg x b) := by
  obtain ⟨hrest, hregs, hmem⟩ := h
  refine ⟨congrArg (·.setReg x b) hrest, fun k hk => ?_, hmem⟩
  have hne : k ≠ x := fun hkx => hk (hkx ▸ hx)
  rw [State.reg_setReg_of_ne t b hne, hregs k hk]

theorem onlyPcRegs_clearVFIfChip8 {xs : List RegIdx} {s t : State} (h : OnlyPcRegs xs s t) (hvf : vfIdx ∈ xs) :
    OnlyPcRegs xs s t.clearVFIfChip8 := by
  unfold State.clearVFIfChip8
  cases t.variant with
  | chip8 => exact onlyPcRegs_setReg h hvf _
  | schip => exact h

theorem onlyPcRegs_advance_setReg (s : State) (x : RegIdx) (xs : List RegIdx) (b : Byte) :
    OnlyPcRegs (x :: xs) s (s.advance.setReg x b) :=
  onlyPcRegs_setReg (onlyPcRegs_advance _ s) List.mem_cons_self b

/-! ### The shapes of write-back -/

/-- Result first, flag last (R160): Vx holds the result unless it is VF, and VF always ends as the flag. -/
theorem regFlag_of_exec {i : Instr} {s : State} {x : RegIdx} {res : Byte} {flag : Bool}
    (hexec : exec i s = .next (s.advance.setRegFlag x res flag)) :
    ∃ t, exec i s = .next t ∧ (x ≠ vfIdx → t.reg x = res) ∧ t.reg vfIdx = flagByte flag ∧ t.pc = s.pc + 2 ∧
      OnlyPcRegs [x, vfIdx] s t := by
  refine ⟨_, hexec, fun hx => ?_, ?_, rfl, ?_⟩
  · rw [State.reg_setRegFlag, if_neg hx, if_pos rfl]
  · rw [State.reg_setRegFlag, if_pos rfl]
  · exact onlyPcRegs_setReg (onlyPcRegs_advance_setReg s x [vfIdx] res) (by simp) (flagByte flag)

/-- The write-back of the logic instructions (R166): only the CHIP8 clearing of VF can lose the result. -/
theorem logic_of_exec {i : Instr} {s : State} {x : RegIdx} {res : Byte}
    (hexec : exec i s = .next (s.advance.setReg x res).clearVFIfChip8) :
    ∃ t, exec i s = .next t ∧ (s.variant = .schip ∨ x ≠ vfIdx → t.reg x = res) ∧
      (s.variant = .chip8 → t.reg vfIdx = 0) ∧
      (s.variant = .schip → x ≠ vfIdx → t.reg vfIdx = s.reg vfIdx) ∧
      t.pc = s.pc + 2 ∧ OnlyPcRegs [x, vfIdx] s t := by
  have hreg (k : RegIdx) : (s.advance.setReg x res).clearVFIfChip8.reg k =
      if s.variant = .chip8 ∧ k = vfIdx then 0 else if k = x then res else s.reg k := by
    simp only [State.reg_clearVFIfChip8, State.reg_setReg, State.setReg_variant, State.advance_variant, State.advance_reg]
  refine ⟨_, hexec, fun hkept => ?_, fun hv => ?_, fun hv hx => ?_, State.clearVFIfChip8_pc _, ?_⟩
  · have hlost : ¬(s.variant = .chip8 ∧ x = vfIdx) := by
      rintro ⟨hv, hx⟩
      simp [hv, hx] at hkept
    rw [hreg, if_neg hlost, if_pos rfl]
  · rw [hreg, if_pos ⟨hv, rfl⟩]
  · rw [hreg, if_neg (by simp [hv]), if_neg hx.symm]
  · exact onlyPcRegs_clearVFIfChip8 (onlyPcRegs_advance_setReg s x [vfIdx] res) (by simp)

/-! ### Results and flags as numbers -/

theorem flagByte_decide (p : Prop) [Decidable p] : flagByte (decide p) = if p then 1 else 0 := by
  simp only [flagByte, decide_eq_true_eq]

theorem flagByte_toNat (b : Bool) : (flagByte b).toNat = b.toNat := by
  cases b <;> rfl

/-- The difference of bytes is the integer difference modulo 256 (R170). -/
theorem toNat_sub_emod (a b : Byte) : ((a - b).toNat : Int) = ((a.toNat : Int) - b.toNat) % 256 := by
  have := b.isLt
  rw [BitVec.toNat_sub]
  omega

theorem toNat_ushiftRight_one (a : Byte) : (a >>> 1).toNat = a.toNat / 2 := by
  rw [BitVec.toNat_ushiftRight, Nat.shiftRight_eq_div_pow, pow_one]

theorem toNat_shiftLeft_one (a : Byte) : (a <<< 1).toNat = a.toNat * 2 % 256 := by
  rw [BitVec.toNat_shiftLeft, Nat.shiftLeft_eq, pow_one]

theorem shiftedOutRight_toNat (a : Byte) : (shiftedOutRight a).toNat = a.toNat % 2 := by
  rw [shiftedOutRight, ← BitVec.testBit_toNat, Nat.toNat_testBit, pow_zero, Nat.div_one]

theorem shiftedOutLeft_toNat (a : Byte) : (shiftedOutLeft a).toNat = a.toNat / 128 := by
  have := a.isLt
  rw [shiftedOutLeft, ← BitVec.testBit_toNat, Nat.toNat_testBit]
  omega

/-- The source of a shift under each variant, as a number (R171, R173). -/
theorem shiftSource_toNat {s : State} {x y : RegIdx} {src : Nat}
    (h : (s.variant = .chip8 ∧ src = (s.reg y).toNat) ∨ (s.variant = .schip ∧ src = (s.reg x).toNat)) :
    (shiftSource s x y).toNat = src := by
  obtain ⟨hv, rfl⟩ | ⟨hv, rfl⟩ := h
  · rw [shiftSource_chip8 hv]
  · rw [shiftSource_schip hv]

/-- A subtraction of byte b from byte a into Vx, with the no-borrow in VF. -/
theorem difference_of_exec {i : Instr} {s : State} {x : RegIdx} {a b : Byte}
    (hexec : exec i s = .next (s.advance.setRegFlag x (a - b) (noBorrowFlag a b))) :
    ∃ t, exec i s = .next t ∧ (x ≠ vfIdx → ((t.reg x).toNat : Int) = ((a.toNat : Int) - b.toNat) % 256) ∧
      t.reg vfIdx = (if a.toNat ≥ b.toNat then 1 else 0) ∧ t.pc = s.pc + 2 ∧ OnlyPcRegs [x, vfIdx] s t := by
  obtain ⟨t, hnext, hres, hflag, hpc, hframe⟩ := regFlag_of_exec hexec
  exact ⟨t, hnext, fun hx => hres hx ▸ toNat_sub_emod a b, hflag.trans (flagByte_decide _), hpc, hframe⟩

/-! ### The obligations -/

/-- Settles O33: each of the three is the advance and one register write. -/
theorem loadMoveAddImmediate : Obligations.LoadMoveAddImmediate := by
  refine fun x y kk s => ⟨?_, ?_, ?_, ?_, ?_, ?_⟩
  · exact decodesTo_packXK (fun _ _ _ _ => rfl) x kk
  · exact decodesTo_packXK (fun _ _ _ _ => rfl) x kk
  · exact decodesTo_packXY (fun _ _ _ => rfl) x y
  · exact ⟨_, rfl, State.reg_setReg_self .., rfl, onlyPcRegs_advance_setReg ..⟩
  · refine ⟨_, rfl, ?_, rfl, onlyPcRegs_advance_setReg ..⟩
    rw [State.reg_setReg_self]
    exact BitVec.toNat_add ..
  · exact ⟨_, rfl, State.reg_setReg_self .., rfl, onlyPcRegs_advance_setReg ..⟩

/-- Settles O34: the three share their write-back, and bit b of each result is the operation on the two bits b. -/
theorem logicAndTheVFQuirk : Obligations.LogicAndTheVFQuirk := by
  refine fun x y s => ⟨?_, ?_, ?_, fun i f hop => ?_⟩
  · exact decodesTo_packXY (fun _ _ _ => rfl) x y
  · exact decodesTo_packXY (fun _ _ _ => rfl) x y
  · exact decodesTo_packXY (fun _ _ _ => rfl) x y
  · have hresult : ∃ res : Byte, exec i s = .next (s.advance.setReg x res).clearVFIfChip8 ∧
        ∀ b, res.getLsbD b = f ((s.reg x).getLsbD b) ((s.reg y).getLsbD b) := by
      obtain ⟨rfl, rfl⟩ | ⟨rfl, rfl⟩ | ⟨rfl, rfl⟩ := hop
      · exact ⟨_, rfl, fun _ => BitVec.getLsbD_or⟩
      · exact ⟨_, rfl, fun _ => BitVec.getLsbD_and⟩
      · exact ⟨_, rfl, fun _ => BitVec.getLsbD_xor⟩
    obtain ⟨res, hexec, hbits⟩ := hresult
    obtain ⟨t, hnext, hres, hclear, hkeep, hpc, hframe⟩ := logic_of_exec hexec
    exact ⟨t, hnext, fun hx b _ => hres hx ▸ hbits b, hclear, hkeep, hpc, hframe⟩

/-- Settles O35: the flag compares the unreduced sum (R175). -/
theorem addWithCarry : Obligations.AddWithCarry := by
  intro x y s
  obtain ⟨t, hnext, hres, hflag, hpc, hframe⟩ := regFlag_of_exec (s := s) (i := .addReg x y) rfl
  refine ⟨decodesTo_packXY (fun _ _ _ => rfl) x y, t, hnext, fun hx => ?_, ?_, hpc, hframe⟩
  · rw [hres hx]
    exact BitVec.toNat_add ..
  · exact hflag.trans (flagByte_decide _)

/-- Settles O36: SUB and SUBN are one subtraction with the operands exchanged. -/
theorem subtractNoBorrow : Obligations.SubtractNoBorrow := by
  refine fun x y s => ⟨?_, ?_, ?_, ?_⟩
  · exact decodesTo_packXY (fun _ _ _ => rfl) x y
  · exact decodesTo_packXY (fun _ _ _ => rfl) x y
  · exact difference_of_exec rfl
  · exact difference_of_exec rfl

/-- Settles O37: half and double of the source, and its lowest and highest bit. -/
theorem shiftByOne : Obligations.ShiftByOne := by
  intro x y s src hvariant
  obtain rfl := shiftSource_toNat hvariant
  refine ⟨?_, ?_, ?_, ?_⟩
  · exact decodesTo_packXY (fun _ _ _ => rfl) x y
  · exact decodesTo_packXY (fun _ _ _ => rfl) x y
  · obtain ⟨t, hnext, hres, hflag, hpc, hframe⟩ := regFlag_of_exec (s := s) (i := .shr x y) rfl
    refine ⟨t, hnext, fun hx => ?_, ?_, hpc, hframe⟩
    · rw [hres hx, toNat_ushiftRight_one]
    · rw [hflag, flagByte_toNat, shiftedOutRight_toNat]
  · obtain ⟨t, hnext, hres, hflag, hpc, hframe⟩ := regFlag_of_exec (s := s) (i := .shl x y) rfl
    refine ⟨t, hnext, fun hx => ?_, ?_, hpc, hframe⟩
    · rw [hres hx, toNat_shiftLeft_one]
    · rw [hflag, flagByte_toNat, shiftedOutLeft_toNat]

end Sys2Proof.Proofs.LoadAlu
end

section
/-! PROOFS. Index and jump with offset (43_index_jump_random.md): the two format A instructions that load nnn into I and
into PC. -/

namespace Sys2Proof.Proofs.IndexJump

open Sys2Proof.Machine Sys2Proof.Proofs.JumpCallSkip

/-! ### Jump with register offset (R192) -/

theorem exec_jpV0 (nnn : Addr12) (s : State) :
    exec (.jpV0 nnn) s = .next (s.advance.setPc (addrOf nnn + wordOf (jumpOffset s nnn))) := rfl

/-- A 12-bit address plus a byte does not wrap in 16 bits. -/
theorem addrOf_add_wordOf_toNat (nnn : Addr12) (b : Byte) : (addrOf nnn + wordOf b).toNat = nnn.toNat + b.toNat := by
  have := nnn.isLt
  have := b.isLt
  rw [BitVec.toNat_add, addrOf_toNat, wordOf_toNat]
  omega

/-- Settles O32: the target is the unwrapped sum, and the variant picks the register added. -/
theorem jumpWithOffset : Obligations.JumpWithOffset := by
  intro nnn s
  have hsum := addrOf_add_wordOf_toNat nnn (jumpOffset s nnn)
  refine ⟨decodesTo_packA (fun _ _ _ _ => rfl) nnn, _, exec_jpV0 nnn s, fun hv => ?_, fun hv x hx => ?_, ?_, rfl,
    fun _ => rfl⟩
  · rw [← jumpOffset_chip8 hv nnn]
    exact hsum
  · rw [← jumpOffset_schip hv hx]
    exact hsum
  · have := nnn.isLt
    have := (jumpOffset s nnn).isLt
    rw [State.setPc_pc, hsum]
    omega

/-! ### Load index (R190) -/

theorem exec_ldI (nnn : Addr12) (s : State) : exec (.ldI nnn) s = .next (s.advance.setI (addrOf nnn)) := rfl

/-- Settles O39: the zero-extended nnn replaces I in the advanced state. -/
theorem loadIndex : Obligations.LoadIndex := fun nnn s =>
  ⟨decodesTo_packA (fun _ _ _ _ => rfl) nnn, _, exec_ldI nnn s, addrOf_toNat nnn, rfl, rfl, fun _ => rfl⟩

end Sys2Proof.Proofs.IndexJump
end

section
/-! PROOFS. Draw a sprite (44_draw.md): what a list of pixel XORs leaves of a plane and of its two flags (R203, R205,
R208), which pixels an SCHIP sprite lands on (R201, R204), and what a draw changes beside the plane (R200). -/

namespace Sys2Proof.Proofs.Draw

open Sys2Proof.Machine

/-! ### A list of pixel XORs (R203, R205, R208) -/

theorem xorPixels_concat {w h : Nat} (p : Plane w h) (ts : List (Nat × Nat)) (q : Nat × Nat) :
    xorPixels p (ts ++ [q]) = xorPixel (xorPixels p ts) q := List.foldl_concat ..

/-- A pixel is toggled as often as the list names it. -/
theorem pixel_xorPixels {w h : Nat} (p : Plane w h) {ts : List (Nat × Nat)} (hts : ∀ q ∈ ts, q.1 < h ∧ q.2 < w)
    (r c : Nat) : (xorPixels p ts).plane.pixel r c = (p.pixel r c ^^ decide (ts.count (r, c) % 2 = 1)) := by
  induction ts using List.reverseRecOn with
  | nil => simp
  | append_singleton ts q ih =>
    obtain ⟨hr, hc⟩ := hts q (by simp)
    have hrec := ih fun q' hq' => hts q' (List.mem_append_left _ hq')
    rw [xorPixels_concat, xorPixel, Plane.pixel_toggle _ hr hc, hrec, List.count_append, List.count_singleton]
    by_cases hq : q = (r, c)
    · subst hq
      have hparity : decide ((ts.count (r, c) + 1) % 2 = 1) = !decide (ts.count (r, c) % 2 = 1) := by
        rw [← decide_not, decide_eq_decide]; omega
      simp [hparity]
    · have hne : ¬(r = q.1 ∧ c = q.2) := fun h => hq (Prod.ext h.1.symm h.2.symm)
      simp [hq, hne]

/-- The collision flag: a pixel that was lit is hit, or a pixel is hit twice. -/
theorem coll_xorPixels_iff {w h : Nat} (p : Plane w h) {ts : List (Nat × Nat)} (hts : ∀ q ∈ ts, q.1 < h ∧ q.2 < w) :
    (xorPixels p ts).coll = true ↔ ∃ q, (p.pixel q.1 q.2 = true ∧ 1 ≤ ts.count q) ∨ 2 ≤ ts.count q := by
  induction ts using List.reverseRecOn with
  | nil => simp
  | append_singleton ts q ih =>
    have hts' : ∀ q' ∈ ts, q'.1 < h ∧ q'.2 < w := fun q' hq' => hts q' (List.mem_append_left _ hq')
    have hcount (q' : Nat × Nat) : (ts ++ [q]).count q' = ts.count q' + if q = q' then 1 else 0 := by
      simp [List.count_append, List.count_singleton]
    have hlit : (xorPixels p ts).plane.pixel q.1 q.2 = true ↔ ¬(p.pixel q.1 q.2 = true ↔ ts.count q % 2 = 1) := by
      rw [pixel_xorPixels p hts']
      cases p.pixel q.1 q.2 <;> simp
    rw [xorPixels_concat, xorPixel, Bool.or_eq_true, ih hts', hlit]
    simp only [hcount]
    constructor
    · rintro (⟨q', hq'⟩ | hq)
      · exact ⟨q', by grind⟩
      · exact ⟨q, by grind⟩
    · rintro ⟨q', hq'⟩
      by_cases hbefore : (p.pixel q'.1 q'.2 = true ∧ 1 ≤ ts.count q') ∨ 2 ≤ ts.count q'
      · exact .inl ⟨q', hbefore⟩
      · obtain rfl : q = q' := by grind
        exact .inr (by grind)

theorem toggled_xorPixels_iff {w h : Nat} (p : Plane w h) (ts : List (Nat × Nat)) :
    (xorPixels p ts).toggled = true ↔ ∃ q, q ∈ ts := by
  induction ts using List.reverseRecOn with
  | nil => simp
  | append_singleton ts q => simp [xorPixels_concat, xorPixel]

/-! ### The pixels an SCHIP sprite lands on (R201, R204) -/

/-- A placement that maps no two sprite bits to one pixel lists no pixel twice. -/
theorem nodup_spriteTargets {place : Nat → Nat → Option (Nat × Nat)}
    (hinj : ∀ {r c r' c' q}, place r c = some q → place r' c' = some q → r = r' ∧ c = c')
    (bit : Nat → Nat → Bool) (rows cols : Nat) : (spriteTargets bit place rows cols).Nodup := by
  have hplace {r c q} (h : q ∈ if bit r c then place r c else none) : place r c = some q := by
    split at h
    · exact h
    · cases h
  refine List.nodup_flatMap.2 ⟨fun r _ => ?_, List.nodup_range.imp fun hne q hq hq' => hne ?_⟩
  · exact List.nodup_range.filterMap fun c c' q h h' => (hinj (hplace h) (hplace h')).2
  · obtain ⟨c, -, h⟩ := List.mem_filterMap.1 hq
    obtain ⟨c', -, h'⟩ := List.mem_filterMap.1 hq'
    exact (hinj (hplace h) (hplace h')).1

/-- A clipped position is the unclipped one, and inside the plane. -/
theorem clipPlace_eq_some_iff {w h : Nat} {x0 y0 : Int} {r c row col : Nat} :
    clipPlace w h x0 y0 r c = some (row, col) ↔ (row < h ∧ col < w) ∧ y0 + r = row ∧ x0 + c = col := by
  rw [clipPlace, Option.ite_none_right_eq_some, Option.some.injEq, Prod.mk.injEq]
  omega

theorem spritePlace_schip {s : State} (hv : s.variant = .schip) (g : Geometry) (x y : RegIdx) (r c : Nat) :
    spritePlace s g x y r c = clipPlace (planeWidth g.hi) (planeHeight g.hi)
      (((s.reg x).toNat % planeWidth g.hi : Nat) + s.scrollX.toInt)
      (((s.reg y).toNat % planeHeight g.hi : Nat) + s.scrollY.toInt) r c := by
  rw [spritePlace, hv]

/-- The targets of an SCHIP draw are the pixels of the plane that a set bit lands on. -/
theorem mem_drawTargets_schip {s : State} (hv : s.variant = .schip) {n : Nibble} {g : Geometry}
    (hg : geometry s.variant s.highRes n = g) (x y : RegIdx) (row col : Nat) :
    (row, col) ∈ drawTargets s x y n ↔ (row < planeHeight g.hi ∧ col < planeWidth g.hi) ∧
      schipHit s (planeWidth g.hi) (planeHeight g.hi) g.rows g.bpr x y row col := by
  simp only [drawTargets, hg, mem_spriteTargets, spritePlace_schip hv, clipPlace_eq_some_iff]
  constructor
  · rintro ⟨r, hr, c, hc, hbit, hin, hrow, hcol⟩
    exact ⟨hin, r, c, hr, hc, hbit, hrow, hcol⟩
  · rintro ⟨hin, r, c, hr, hc, hbit, hrow, hcol⟩
    exact ⟨r, hr, c, hc, hbit, hin, hrow, hcol⟩

/-- No two bits of an SCHIP sprite land on one pixel. -/
theorem nodup_drawTargets_schip {s : State} (hv : s.variant = .schip) (x y : RegIdx) (n : Nibble) :
    (drawTargets s x y n).Nodup := by
  refine nodup_spriteTargets (fun h h' => ?_) ..
  rw [spritePlace_schip hv] at h h'
  obtain ⟨-, hrow, hcol⟩ := clipPlace_eq_some_iff.1 h
  obtain ⟨-, hrow', hcol'⟩ := clipPlace_eq_some_iff.1 h'
  omega

/-! ### What a draw does beside the plane (R200) -/

@[simp] theorem drawInto_faultCause (hi : Bool) (ts : List (Nat × Nat)) (s : State) :
    (drawInto hi ts s).faultCause = s.faultCause := by
  cases hi <;> rfl

@[simp] theorem drawInto_running (hi : Bool) (ts : List (Nat × Nat)) (s : State) :
    (drawInto hi ts s).running = s.running := by
  cases hi <;> rfl

theorem drawInto_reg_of_ne (hi : Bool) (ts : List (Nat × Nat)) (s : State) {k : RegIdx} (hk : k ≠ vfIdx) :
    (drawInto hi ts s).reg k = s.reg k := by
  cases hi with
  | false => exact State.reg_setReg_of_ne _ _ hk
  | true => exact State.reg_setReg_of_ne _ _ hk

/-- A draw either runs whole or faults before anything (R206). -/
theorem exec_drw (x y : RegIdx) (n : Nibble) (s : State) :
    exec (.drw x y n) s = if accessOk s.i (accessBytes (.drw x y n) s) then
      .next (drawInto (geometry s.variant s.highRes n).hi (drawTargets s x y n) s.advance)
      else .next (s.raise .memFault) := rfl

theorem exec_drw_of_inRange {s : State} {n : Nibble} {g : Geometry} (hg : geometry s.variant s.highRes n = g)
    (hok : accessOk s.i (g.rows * g.bpr) = true) (x y : RegIdx) :
    exec (.drw x y n) s = .next (drawInto g.hi (drawTargets s x y n) s.advance) := by
  subst hg
  rw [exec_drw, accessBytes, if_pos hok]

/-! ### The SCHIP draw (R204) -/

/-- With every target in the plane and none listed twice, each target is toggled once and VF tells whether one was lit. -/
theorem schipDrawn_of_targets {s t : State} {w h rows bpr : Nat} {x y : RegIdx} {ts : List (Nat × Nat)}
    (before : Plane w h) (hnodup : ts.Nodup)
    (hmem : ∀ row col, (row, col) ∈ ts ↔ (row < h ∧ col < w) ∧ schipHit s w h rows bpr x y row col)
    (hvf : t.reg vfIdx = flagByte (xorPixels before ts).coll)
    (hchanged : t.changed = (s.changed || (xorPixels before ts).toggled)) :
    SchipDrawn s t w h rows bpr x y before (xorPixels before ts).plane := by
  have hin : ∀ q ∈ ts, q.1 < h ∧ q.2 < w := fun q hq => ((hmem q.1 q.2).1 hq).1
  have hcoll : (xorPixels before ts).coll = true ↔ ∃ q, before.pixel q.1 q.2 = true ∧ q ∈ ts := by
    rw [coll_xorPixels_iff before hin]
    refine exists_congr fun q => ?_
    have hone : ¬2 ≤ ts.count q := by
      have := List.nodup_iff_count_le_one.1 hnodup q
      omega
    rw [or_iff_left hone, List.one_le_count_iff]
  have hflag : t.reg vfIdx = 1 ↔ (xorPixels before ts).coll = true := by
    rw [hvf]
    cases (xorPixels before ts).coll <;> decide
  refine ⟨fun r c hr hc => ?_, ?_, ?_, ?_⟩
  · have hhit : ts.count (r, c) % 2 = 1 ↔ schipHit s w h rows bpr x y r c := by
      rw [hnodup.count, ← (hmem r c).trans (and_iff_right ⟨hr, hc⟩)]
      split_ifs with htarget <;> simp [htarget]
    rw [pixel_xorPixels before hin, ← hhit]
    cases before.pixel r c <;> simp
  · rw [hvf]
    cases (xorPixels before ts).coll
    · exact .inl rfl
    · exact .inr rfl
  · rw [hflag, hcoll, Prod.exists]
    refine exists₂_congr fun r c => ?_
    rw [hmem]
    tauto
  · rw [hchanged, Bool.or_eq_true, toggled_xorPixels_iff, Prod.exists]
    simp only [hmem, and_assoc]

/-- An SCHIP draw into the low plane. -/
theorem schipDraw_lo {s : State} (hv : s.variant = .schip) {n : Nibble} {rows bpr : Nat}
    (hg : geometry s.variant s.highRes n = ⟨false, rows, bpr⟩) (hok : accessOk s.i (rows * bpr) = true) (x y : RegIdx) :
    ∃ t, exec (.drw x y n) s = .next t ∧
      SchipDrawn s t 64 32 rows bpr x y s.fbLo t.fbLo ∧ (∀ k, k ≠ vfIdx → t.reg k = s.reg k) ∧ t.pc = s.pc + 2 ∧
      t = { s with pc := t.pc, v := t.v, fbLo := t.fbLo, changed := t.changed } ∧ SameMem s t :=
  ⟨_, exec_drw_of_inRange hg hok x y,
    schipDrawn_of_targets s.fbLo (nodup_drawTargets_schip hv x y n) (mem_drawTargets_schip hv hg x y)
      (State.reg_setReg_self ..) rfl,
    fun _ hk => drawInto_reg_of_ne _ _ s.advance hk, rfl, rfl, fun _ => rfl⟩

/-- An SCHIP draw into the high plane. -/
theorem schipDraw_hi {s : State} (hv : s.variant = .schip) {n : Nibble} {rows bpr : Nat}
    (hg : geometry s.variant s.highRes n = ⟨true, rows, bpr⟩) (hok : accessOk s.i (rows * bpr) = true) (x y : RegIdx) :
    ∃ t, exec (.drw x y n) s = .next t ∧
      SchipDrawn s t 128 64 rows bpr x y s.fbHi t.fbHi ∧ (∀ k, k ≠ vfIdx → t.reg k = s.reg k) ∧ t.pc = s.pc + 2 ∧
      t = { s with pc := t.pc, v := t.v, fbHi := t.fbHi, changed := t.changed } ∧ SameMem s t :=
  ⟨_, exec_drw_of_inRange hg hok x y,
    schipDrawn_of_targets s.fbHi (nodup_drawTargets_schip hv x y n) (mem_drawTargets_schip hv hg x y)
      (State.reg_setReg_self ..) rfl,
    fun _ hk => drawInto_reg_of_ne _ _ s.advance hk, rfl, rfl, fun _ => rfl⟩

/-- Settles O42: the three rows of the geometry table (R201) under SCHIP. -/
theorem schipDrawScrollsAndClips : Obligations.SchipDrawScrollsAndClips := by
  refine fun x y n s hv => ⟨fun hres hmem => ?_, fun hres hn hmem => ?_, fun hres hn hmem => ?_⟩
  · have hg : geometry s.variant s.highRes n = ⟨false, n.toNat, 1⟩ := by rw [hv, hres]; rfl
    exact schipDraw_lo hv hg ((accessOk_iff ..).2 (by omega)) x y
  · have hg : geometry s.variant s.highRes n = ⟨true, n.toNat, 1⟩ := by rw [hv, hres]; exact if_neg hn
    exact schipDraw_hi hv hg ((accessOk_iff ..).2 (by omega)) x y
  · have hg : geometry s.variant s.highRes n = ⟨true, 16, 2⟩ := by rw [hv, hres]; exact if_pos hn
    exact schipDraw_hi hv hg ((accessOk_iff ..).2 (by omega)) x y

end Sys2Proof.Proofs.Draw
end

section
/-! PROOFS. Which instruction faults when (60_exceptions.md R281, R284; 44_draw.md R206). -/

namespace Sys2Proof.Proofs.Faults

open Sys2Proof.Machine Sys2Proof.Proofs.Control Sys2Proof.Proofs.JumpCallSkip Sys2Proof.Proofs.Draw

/-- An instruction in a state keeps to the fault table: what FaultsExactlyByTheTable says of the two. -/
def FaultsByTable (i : Instr) (s : State) : Prop :=
  (faultOf i s ≠ .none → exec i s = .next { s with running := false, faultCause := faultOf i s }) ∧
  (faultOf i s = .none → ∃ t, exec i s = .next t ∧ t.faultCause = s.faultCause ∧ (i ≠ .exit → t.running = s.running))

theorem faultsByTable_of_raise {i : Instr} {s : State} {c : FaultCause} (hf : faultOf i s = c) (hc : c ≠ .none)
    (hexec : exec i s = .next (s.raise c)) : FaultsByTable i s := by
  subst hf
  exact ⟨fun _ => hexec, fun h => absurd h hc⟩

theorem faultsByTable_of_completes {i : Instr} {s t : State} (hf : faultOf i s = .none) (hexec : exec i s = .next t)
    (hcause : t.faultCause = s.faultCause) (hrun : i ≠ .exit → t.running = s.running) : FaultsByTable i s :=
  ⟨fun h => absurd hf h, fun _ => ⟨t, hexec, hcause, hrun⟩⟩

/-- The four instructions that access memory through I test their whole access first (20_memory.md R70). -/
theorem faultsByTable_of_access {i : Instr} {s t : State}
    (hf : faultOf i s = if 1 ≤ accessBytes i s ∧ s.i.toNat + accessBytes i s - 1 > 4095 then .memFault else .none)
    (hexec : exec i s = if accessOk s.i (accessBytes i s) then .next t else .next (s.raise .memFault))
    (hcause : t.faultCause = s.faultCause) (hrun : t.running = s.running) : FaultsByTable i s := by
  by_cases hok : accessOk s.i (accessBytes i s) = true
  · rw [if_pos hok] at hexec
    rw [accessOk_iff] at hok
    rw [if_neg (by omega)] at hf
    exact faultsByTable_of_completes hf hexec hcause fun _ => hrun
  · rw [if_neg hok] at hexec
    rw [accessOk_iff] at hok
    rw [if_pos (by omega)] at hf
    exact faultsByTable_of_raise hf (by decide) hexec

theorem faultsByTable_ret (s : State) : FaultsByTable .ret s := by
  obtain ⟨hsp, hpop⟩ | ⟨hsp, w, t, hpop, -, -, ht⟩ := s.pop_cases
  · exact faultsByTable_of_raise (if_pos hsp) (by decide) (exec_ret_of_empty hpop)
  · have hcause : t.faultCause = s.faultCause := by rw [ht]
    have hrun : t.running = s.running := by rw [ht]
    exact faultsByTable_of_completes (if_neg hsp.ne') (exec_ret_of_pop hpop) hcause fun _ => hrun

theorem faultsByTable_call (nnn : Addr12) (s : State) : FaultsByTable (.call nnn) s := by
  obtain ⟨hsp, hpush⟩ | ⟨hsp, t, hpush, -, ht, -⟩ := s.push_cases (s.pc + 2)
  · exact faultsByTable_of_raise (if_pos hsp) (by decide) (exec_call_of_full nnn hpush)
  · have hcause : t.faultCause = s.faultCause := by rw [ht]
    have hrun : t.running = s.running := by rw [ht]
    exact faultsByTable_of_completes (if_neg hsp.ne) (exec_call_of_push nnn hpush) hcause fun _ => hrun

/-- Every outcome of the key wait keeps the machine running (46_family_F.md R246). -/
theorem faultsByTable_ldVxK (x : RegIdx) (s : State) : FaultsByTable (.ldVxK x) s := by
  have hexec : ∃ t, execLdVxK x s = .next t ∧ t.faultCause = s.faultCause ∧ t.running = s.running := by
    unfold execLdVxK
    split_ifs
    · exact ⟨_, rfl, rfl, rfl⟩
    · exact ⟨_, rfl, rfl, rfl⟩
    · split
      · exact ⟨_, rfl, rfl, rfl⟩
      · exact ⟨_, rfl, rfl, rfl⟩
  obtain ⟨t, hnext, hcause, hrun⟩ := hexec
  exact faultsByTable_of_completes rfl hnext hcause fun _ => hrun

/-- Settles O14, instruction by instruction along the table of R281: RET and CALL by the stack, four instructions by their
access through I, and every other one completes. -/
theorem faultsExactlyByTheTable : Obligations.FaultsExactlyByTheTable := by
  intro i s
  change FaultsByTable i s
  cases i with
  | ret => exact faultsByTable_ret s
  | call nnn => exact faultsByTable_call nnn s
  | drw x y n => exact faultsByTable_of_access rfl (exec_drw x y n s) (drawInto_faultCause ..) (drawInto_running ..)
  | ldB x | ldMemVx x | ldVxMem x => exact faultsByTable_of_access rfl rfl rfl rfl
  | ldVxK x => exact faultsByTable_ldVxK x s
  | exit => exact faultsByTable_of_completes rfl rfl rfl fun h => absurd rfl h
  | seImm x kk | sneImm x kk | seReg x y | sneReg x y | skp x | sknp x =>
    exact faultsByTable_of_completes rfl rfl (State.skipIf_faultCause ..) fun _ => State.skipIf_running ..
  | orReg x y | andReg x y | xorReg x y =>
    exact faultsByTable_of_completes rfl rfl (State.clearVFIfChip8_faultCause _) fun _ => State.clearVFIfChip8_running _
  | cls | scd n | scr | scl | low | high | jp nnn | ldImm x kk | addImm x kk | ldReg x y | addReg x y | sub x y | shr x y
  | subn x y | shl x y | ldI nnn | jpV0 nnn | rnd x kk | ldVxDt x | ldDtVx x | ldStVx x | addI x | ldF x | ldHf x
  | ldRVx x | ldVxR x | unknown w =>
    exact faultsByTable_of_completes rfl rfl rfl fun _ => rfl

end Sys2Proof.Proofs.Faults
end

section
/-! PROOFS. Family E, skip on key state (45_keys.md): how words of format XF decode, which words of the family are
UNKNOWN, and the key Vx names. -/

namespace Sys2Proof.Proofs.Keys

open Sys2Proof.Machine Sys2Proof.Proofs.JumpCallSkip

/-! ### Decoding (30_encoding.md R92, R100) -/

theorem decodesTo_packXF {a : Nibble} {fn : Byte} {f : RegIdx → Instr}
    (hdec : ∀ v b, decodeDigits v a b (kkHi fn) (kkLo fn) = f b.toFin) (x : RegIdx) : DecodesTo (packXF a x fn) (f x) := by
  intro v
  rw [packXF, packXK_eq, decode_pack, hdec, toFin_digitOf]

/-- The decoder of family E tests the low byte for 9E and for A1. -/
theorem decodeFamE_of_ne {c d : Nibble} (hskp : fieldKk c d ≠ 0x9E) (hsknp : fieldKk c d ≠ 0xA1) (b : Nibble) :
    decodeFamE b c d = .unknown (pack 0xE b c d) := by
  have hc9 : ¬(c = 0x9 ∧ d = 0xE) := fun ⟨hc, hd⟩ => hskp (by rw [hc, hd]; rfl)
  have hcA : ¬(c = 0xA ∧ d = 0x1) := fun ⟨hc, hd⟩ => hsknp (by rw [hc, hd]; rfl)
  rw [decodeFamE, if_neg hc9, if_neg hcA]

theorem decodesTo_unknown_packXF_E {kk : Byte} (hskp : kk ≠ 0x9E) (hsknp : kk ≠ 0xA1) (x : RegIdx) :
    DecodesTo (packXF 0xE x kk) (.unknown (packXF 0xE x kk)) := by
  intro v
  rw [← fieldKk_digits kk] at hskp hsknp
  rw [packXF, packXK_eq, decode_pack]
  exact decodeFamE_of_ne hskp hsknp (digitOf x)

/-! ### The key named by Vx (R232) -/

/-- Bits 7:4 are ignored. -/
theorem lowNibble_eq_of_val {b : Byte} {k : RegIdx} (hk : k.val = b.toNat % 16) : lowNibble b = k :=
  Fin.ext ((lowNibble_val b).trans hk.symm)

/-- Settles O44: both instructions end in `skipIf` with the state of key k as the test, SKNP with its negation, and the
decoder of family E tests the low byte. -/
theorem keySkips : Obligations.KeySkips := by
  intro x s k hk
  obtain rfl : lowNibble (s.reg x) = k := lowNibble_eq_of_val hk
  refine ⟨?_, ?_, fun kk hskp hsknp => ?_, ?_, ?_⟩
  · exact decodesTo_packXF (fun _ _ => rfl) x
  · exact decodesTo_packXF (fun _ _ => rfl) x
  · exact decodesTo_unknown_packXF_E hskp hsknp x
  · exact skips_of_exec rfl Iff.rfl
  · exact skips_of_exec rfl (Bool.not_eq_true' _).to_iff

end Sys2Proof.Proofs.Keys
end

section
/-! PROOFS. Family F (46_family_F.md): the four cases of the key wait, the transfers between Vx and the timers, index
arithmetic, and the block transfers with memory and with the flag registers. -/

namespace Sys2Proof.Proofs.FamilyF

open Sys2Proof.Machine Sys2Proof.Proofs.LoadAlu Sys2Proof.Proofs.Keys

/-! ### The key wait (R246) -/

theorem exec_ldVxK_of_noKey {s : State} (x : RegIdx) (hwait : s.waitKey = false) (hscan : s.firstKeyDown = none) :
    exec (.ldVxK x) s = .next { s with waiting := true } := by
  rw [exec, execLdVxK, if_neg (by simp [hwait]), hscan]

theorem exec_ldVxK_of_keySeen {s : State} {k : RegIdx} (x : RegIdx) (hwait : s.waitKey = false)
    (hscan : s.firstKeyDown = some k) :
    exec (.ldVxK x) s = .next { s with waitKey := true, waitIndex := k, waiting := true } := by
  rw [exec, execLdVxK, if_neg (by simp [hwait]), hscan]

theorem exec_ldVxK_of_held {s : State} (x : RegIdx) (hwait : s.waitKey = true) (hkey : s.keyDown s.waitIndex = true) :
    exec (.ldVxK x) s = .next { s with waiting := true } := by
  rw [exec, execLdVxK, if_pos hwait, if_pos hkey]

theorem exec_ldVxK_of_released {s : State} (x : RegIdx) (hwait : s.waitKey = true)
    (hkey : s.keyDown s.waitIndex = false) :
    exec (.ldVxK x) s =
      .next { s.advance.setReg x (byteOfIdx s.waitIndex) with waitKey := false, waiting := false } := by
  rw [exec, execLdVxK, if_pos hwait, if_neg (by simp [hkey])]

/-- Settles O45: without an observed key the scan decides, with one the state of that key. -/
theorem keyWaitPhases : Obligations.KeyWaitPhases := by
  refine fun x s => ⟨?_, fun hwait hnone => ?_, fun k hwait hk hlow => ?_, fun hwait hkey => ?_, fun hwait hkey => ?_⟩
  · exact decodesTo_packXF (fun _ _ => rfl) x
  · exact exec_ldVxK_of_noKey x hwait (firstKeyDown_eq_none.2 hnone)
  · exact exec_ldVxK_of_keySeen x hwait (firstKeyDown_eq_some hk hlow)
  · exact exec_ldVxK_of_held x hwait hkey
  · have hreg : (s.advance.setReg x (byteOfIdx s.waitIndex)).reg x = byteOfIdx s.waitIndex := State.reg_setReg_self ..
    exact ⟨_, exec_ldVxK_of_released x hwait hkey, (congrArg BitVec.toNat hreg).trans (byteOfIdx_toNat _),
      fun k hk => State.reg_setReg_of_ne s.advance _ hk, rfl, rfl, rfl, rfl, fun _ => rfl⟩

/-! ### Timers (R240, R250, R252) -/

/-- Settles O47: each of the three is the advance and one write. -/
theorem timerTransfers : Obligations.TimerTransfers := by
  refine fun x s => ⟨?_, ?_, ?_, ?_, ?_, ?_⟩
  · exact decodesTo_packXF (fun _ _ => rfl) x
  · exact decodesTo_packXF (fun _ _ => rfl) x
  · exact decodesTo_packXF (fun _ _ => rfl) x
  · exact ⟨_, rfl, State.reg_setReg_self .., rfl, onlyPcRegs_advance_setReg s x [] s.dt⟩
  · exact ⟨_, rfl, rfl, rfl, rfl, fun _ => rfl⟩
  · exact ⟨_, rfl, rfl, rfl, rfl, fun _ => rfl⟩

/-! ### Index arithmetic (R256, R258, R260) -/

theorem exec_addI (x : RegIdx) (s : State) :
    exec (.addI x) s = .next ((s.advance.setI (s.i + wordOf (s.reg x))).setVF (indexFlag s.i (s.reg x))) := rfl

/-- Settles O48: the operand is Vx as it was before VF is written, so x = VF is no special case. -/
theorem addIndex : Obligations.AddIndex := by
  refine fun x s => ⟨decodesTo_packXF (fun _ _ => rfl) x, _, exec_addI x s, ?_, ?_, fun k hk => ?_, rfl, rfl, fun _ => rfl⟩
  · rw [State.setVF_i, State.setI_i, BitVec.toNat_add, wordOf_toNat]
  · rw [State.reg_setVF, if_pos rfl]
    exact flagByte_decide _
  · rw [State.reg_setVF, if_neg hk]
    rfl

/-- Settles O49: I becomes the address of the digit named by the low four bits of Vx (R72). -/
theorem fontAddresses : Obligations.FontAddresses := by
  refine fun x s => ⟨?_, ?_, ⟨_, rfl, ?_, rfl, rfl, fun _ => rfl⟩, ⟨_, rfl, ?_, rfl, rfl, fun _ => rfl⟩⟩
  · exact decodesTo_packXF (fun _ _ => rfl) x
  · exact decodesTo_packXF (fun _ _ => rfl) x
  · rw [← lowNibble_val]
    exact smallDigitAddr_toNat _
  · rw [← lowNibble_val]
    exact bigDigitAddr_toNat _

/-! ### Accesses through I -/

/-- An instruction that accesses the n + 1 bytes from I completes when the last of them is in memory and faults when it is
not (20_memory.md R70). -/
theorem exec_of_inRange {i : Instr} {s t : State} {n : Nat}
    (hexec : exec i s = if accessOk s.i (n + 1) then .next t else .next (s.raise .memFault))
    (hin : s.i.toNat + n ≤ 4095) : exec i s = .next t := by
  rw [hexec, if_pos ((accessOk_iff ..).2 (.inr hin))]

theorem exec_of_outOfRange {i : Instr} {s t : State} {n : Nat}
    (hexec : exec i s = if accessOk s.i (n + 1) then .next t else .next (s.raise .memFault))
    (hout : s.i.toNat + n > 4095) : exec i s = .next { s with running := false, faultCause := .memFault } := by
  have hbad : ¬accessOk s.i (n + 1) = true := by
    rw [accessOk_iff]
    omega
  rw [hexec, if_neg hbad]
  rfl

theorem read_writeBytes_add {m : Memory} (hm : m.wf = true) {a k : Nat} {bs : List Byte} (ha : a + bs.length ≤ 4096)
    (hk : k < bs.length) : (m.writeBytes a bs).read (a + k) = bs[k]?.getD 0 := by
  rw [Memory.read_writeBytes hm a bs ha, if_pos (by omega), Nat.add_sub_cancel_left]

theorem sameMemOutside_of_writeBytes {s t : State} (hm : s.mem.wf = true) {a : Nat} {bs : List Byte}
    (ha : a + bs.length ≤ 4096) (ht : t.mem = s.mem.writeBytes a bs) : SameMemOutside a bs.length s t := by
  intro b hb
  rw [ht, Memory.read_writeBytes hm a bs ha, if_neg hb]

/-! ### Decimal digits (R262, R263) -/

theorem bcd_value (b : Byte) :
    100 * ((bcd b)[0]?.getD 0).toNat + 10 * ((bcd b)[1]?.getD 0).toNat + ((bcd b)[2]?.getD 0).toNat = b.toNat := by
  have := b.isLt
  simp only [bcd, List.getElem?_cons_zero, List.getElem?_cons_succ, Option.getD_some, BitVec.toNat_ofNat]
  omega

theorem bcd_digit_le (b : Byte) {k : Nat} (hk : k < 3) : ((bcd b)[k]?.getD 0).toNat ≤ 9 := by
  have := b.isLt
  interval_cases k <;>
    simp only [bcd, List.getElem?_cons_zero, List.getElem?_cons_succ, Option.getD_some, BitVec.toNat_ofNat] <;> omega

theorem exec_ldB (x : RegIdx) (s : State) :
    exec (.ldB x) s = if accessOk s.i (2 + 1) then .next (s.advance.setMem (s.mem.writeBytes s.i.toNat (bcd (s.reg x))))
      else .next (s.raise .memFault) := rfl

/-- Settles O50: the three bytes stored are the digits of `bcd`. -/
theorem bcdStore : Obligations.BcdStore := by
  refine fun x s hm => ⟨decodesTo_packXF (fun _ _ => rfl) x, fun hin => ?_, exec_of_outOfRange (exec_ldB x s)⟩
  have hlast : s.i.toNat + (bcd (s.reg x)).length ≤ 4096 := by
    rw [bcd_length]
    omega
  have hread (k : Nat) (hk : k < 3) := read_writeBytes_add hm hlast hk
  refine ⟨_, exec_of_inRange (exec_ldB x s) hin, ?_, fun k hk => ?_, sameMemOutside_of_writeBytes hm hlast rfl, rfl, rfl⟩
  · have hfirst := hread 0 (by decide)
    rw [Nat.add_zero] at hfirst
    rw [State.setMem_mem, hfirst, hread 1 (by decide), hread 2 (by decide)]
    exact bcd_value (s.reg x)
  · rw [State.setMem_mem, hread k hk]
    exact bcd_digit_le (s.reg x) hk

/-! ### Register blocks and memory (R264, R266) -/

theorem exec_ldMemVx (x : RegIdx) (s : State) :
    exec (.ldMemVx x) s = if accessOk s.i (x.val + 1) then
        .next ((s.advance.setMem (s.mem.writeBytes s.i.toNat (regBlock s x))).setI (indexAfterBlock s x))
      else .next (s.raise .memFault) := rfl

/-- Settles O51: the k-th byte stored is the k-th register of the block. -/
theorem blockStore : Obligations.BlockStore := by
  refine fun x s hm => ⟨decodesTo_packXF (fun _ _ => rfl) x, fun hin => ?_, exec_of_outOfRange (exec_ldMemVx x s)⟩
  have hlen := regBlock_length s x
  have hlast : s.i.toNat + (regBlock s x).length ≤ 4096 := by
    rw [hlen]
    omega
  refine ⟨_, exec_of_inRange (exec_ldMemVx x s) hin, fun k hk => ?_, ?_, fun hv => indexAfterBlock_chip8 hv hin,
    fun hv => indexAfterBlock_schip hv x, rfl, rfl⟩
  · have hlt : k.val < (regBlock s x).length := hlen ▸ Nat.lt_succ_of_le hk
    exact (read_writeBytes_add hm hlast hlt).trans (regBlock_getElem s hk)
  · rw [← hlen]
    exact sameMemOutside_of_writeBytes hm hlast rfl

theorem getElem_copyPrefix_of_le (f : Nat → Byte) (dst : Vector Byte 16) {x k : RegIdx} (h : k ≤ x) :
    (copyPrefix f (x.val + 1) dst)[k.val] = f k.val := by
  rw [getElem_copyPrefix, if_pos (Nat.lt_succ_of_le h)]

theorem getElem_copyPrefix_of_gt (f : Nat → Byte) (dst : Vector Byte 16) {x k : RegIdx} (h : x < k) :
    (copyPrefix f (x.val + 1) dst)[k.val] = dst[k.val] := by
  rw [getElem_copyPrefix, if_neg (Nat.not_lt.2 h)]

theorem exec_ldVxMem (x : RegIdx) (s : State) :
    exec (.ldVxMem x) s = if accessOk s.i (x.val + 1) then
        .next ((s.advance.setV (copyPrefix (fun k => s.mem.read (s.i.toNat + k)) (x.val + 1) s.v)).setI
          (indexAfterBlock s x))
      else .next (s.raise .memFault) := rfl

/-- Settles O52: the registers copied read memory at the old I. -/
theorem blockLoad : Obligations.BlockLoad := by
  refine fun x s => ⟨decodesTo_packXF (fun _ _ => rfl) x, fun hin => ?_, exec_of_outOfRange (exec_ldVxMem x s)⟩
  exact ⟨_, exec_of_inRange (exec_ldVxMem x s) hin, fun k hk => getElem_copyPrefix_of_le _ s.v hk,
    fun k hk => getElem_copyPrefix_of_gt _ s.v hk, fun hv => indexAfterBlock_chip8 hv hin,
    fun hv => indexAfterBlock_schip hv x, rfl, rfl, fun _ => rfl⟩

/-! ### Flag registers (R268, R270) -/

theorem exec_ldRVx (x : RegIdx) (s : State) :
    exec (.ldRVx x) s = .next { s.advance with r := copyPrefix (fun k => s.v[k]?.getD 0) (x.val + 1) s.r } := rfl

theorem exec_ldVxR (x : RegIdx) (s : State) :
    exec (.ldVxR x) s = .next (s.advance.setV (copyPrefix (fun k => s.r[k]?.getD 0) (x.val + 1) s.v)) := rfl

/-- An index below 16 is inside a register file, so the copies never see the default of `getD`. -/
theorem getD_getElem?_regIdx (r : Vector Byte 16) (k : RegIdx) : r[k.val]?.getD 0 = r[k.val] := by
  rw [Vector.getElem?_eq_getElem k.isLt, Option.getD_some]

/-- Settles O53: both copy the first x + 1 entries of one register file to the other. -/
theorem flagRegisterTransfers : Obligations.FlagRegisterTransfers := by
  refine fun x s => ⟨?_, ?_, ⟨_, exec_ldRVx x s, fun k hk => ?_, fun k hk => ?_, rfl, rfl, fun _ => rfl⟩,
    ⟨_, exec_ldVxR x s, fun k hk => ?_, fun k hk => ?_, rfl, rfl, fun _ => rfl⟩⟩
  · exact decodesTo_packXF (fun _ _ => rfl) x
  · exact decodesTo_packXF (fun _ _ => rfl) x
  · rw [Vector.getElem?_eq_getElem k.isLt]
    exact congrArg some ((getElem_copyPrefix_of_le _ s.r hk).trans (getD_getElem?_regIdx s.v k))
  · rw [Vector.getElem?_eq_getElem k.isLt, getElem_copyPrefix_of_gt _ s.r hk, Vector.getElem?_eq_getElem k.isLt]
  · rw [Vector.getElem?_eq_getElem k.isLt]
    exact congrArg some ((getElem_copyPrefix_of_le _ s.v hk).trans (getD_getElem?_regIdx s.r k))
  · exact getElem_copyPrefix_of_gt _ s.v hk

end Sys2Proof.Proofs.FamilyF
end

section
/-! PROOFS. Host operations (60_exceptions.md): the load of a ROM image, and the operations that write one field. -/

namespace Sys2Proof.Proofs.HostOps

open Sys2Proof.Machine Sys2Proof.Proofs.FamilyF

/-! ### LoadRom (R305) -/

theorem hostLoadRom_of_fits {bytes : List Byte} (h : bytes.length ≤ 3584) (s : State) :
    hostLoadRom bytes s = some (s.setMem (s.mem.writeBytes 0x200 bytes)) := if_pos h

theorem hostLoadRom_of_tooLong {bytes : List Byte} (h : 3584 < bytes.length) (s : State) : hostLoadRom bytes s = none :=
  if_neg (Nat.not_le_of_gt h)

/-- The host's view of a load: the new state, or the old one when the load fails. -/
theorem applyHost_loadRom (bytes : List Byte) (s : State) :
    applyHost (.loadRom bytes) s = (hostLoadRom bytes s).getD s := rfl

/-- Settles O57: the longest image ends with the last byte of memory, so an image that fits is a store in range. -/
theorem romLoad : Obligations.RomLoad := by
  refine fun bytes s hm => ⟨fun hfits => ?_, fun hlong => ?_⟩
  · have hload := hostLoadRom_of_fits hfits s
    have hlast : 0x200 + bytes.length ≤ 4096 := by omega
    refine ⟨_, hload, ?_, fun k hk => ?_, sameMemOutside_of_writeBytes hm hlast rfl, rfl⟩
    · rw [applyHost_loadRom, hload, Option.getD_some]
    · rw [State.setMem_mem, read_writeBytes_add hm hlast hk, List.getElem?_eq_getElem hk, Option.getD_some]
  · have hload := hostLoadRom_of_tooLong hlong s
    exact ⟨hload, by rw [applyHost_loadRom, hload, Option.getD_none]⟩

/-! ### TimerTick (R302) and SetKey (R304) -/

/-- Subtraction of naturals stops at 0 as the timers do (decision D22). -/
theorem countDown_toNat (b : Byte) : (countDown b).toNat = b.toNat - 1 := by
  unfold countDown
  split
  · next hzero => rw [hzero]; rfl
  · next hpos => bv_omega

/-- Everything a key write can do to the keys. -/
theorem keyDown_hostSetKey (k : RegIdx) (b : Bool) (s : State) (j : RegIdx) :
    (hostSetKey k b s).keyDown j = if j = k then b else s.keyDown j := by
  simp only [State.keyDown, hostSetKey, Vector.getElem_set, Fin.ext_iff, eq_comm]

/-- Settles O56: each operation writes the fields it names and no other. -/
theorem hostRegisterOperations : Obligations.HostRegisterOperations := by
  refine fun s => ⟨?timerTick, fun k b => ?setKey, fun _ => rfl, rfl⟩
  case timerTick => exact ⟨hostTimerTick s, rfl, countDown_toNat s.dt, countDown_toNat s.st, rfl⟩
  case setKey =>
    refine ⟨hostSetKey k b s, rfl, ?_, fun j hj => ?_, rfl⟩
    · rw [keyDown_hostSetKey, if_pos rfl]
    · rw [keyDown_hostSetKey, if_neg hj]

end Sys2Proof.Proofs.HostOps
end

section
/-! PROOFS. Reset and power-on (70_reset_and_hazards.md): what every field is after a reset, and what every address reads
as after a power-on. -/

namespace Sys2Proof.Proofs.Reset

open Sys2Proof.Machine

/-! ### Power-on (R330) -/

/-- Memory with every byte 0, the fonts not yet loaded: the first line of R330. -/
def blankMemory : Memory := Memory.writeBytes [] 0x050 (List.replicate 240 0)

theorem wf_blankMemory : blankMemory.wf = true := Memory.wf_writeBytes rfl ..

/-- Outside the two font ranges an unlisted address reads as 0. -/
theorem powerOnByte_of_notFont {a : Nat} (h : a < 0x050 ∨ 0x140 ≤ a) : powerOnByte a = 0 := by
  simp only [powerOnByte, Config.fontSmallBase, Config.fontBigBase, Config.fontEnd]
  obtain hlow | hhigh := h
  · rw [if_pos hlow]
  · rw [if_neg (by omega), if_neg (by omega), if_neg (by omega)]

/-- The 240 zeros cover exactly the addresses whose power-on content is not 0 already. -/
theorem read_blankMemory (a : Nat) : blankMemory.read a = 0 := by
  have hbound : 0x050 + (List.replicate 240 (0 : Byte)).length ≤ 4096 := by rw [List.length_replicate]; omega
  rw [blankMemory, Memory.read_writeBytes rfl _ _ hbound, List.length_replicate]
  split
  · next hfont => rw [List.getElem?_replicate, if_pos (by omega), Option.getD_some]
  · next hfont => rw [Memory.read_nil, powerOnByte_of_notFont (by omega)]

theorem hostPowerOn_eq (fs : Vector Byte 80) (fb : Vector Byte 160) (s : State) :
    hostPowerOn fs fb s = { hostReset s with
      mem := ((blankMemory.writeBytes 0x050 fs.toList).writeBytes 0x0A0 fb.toList).clearRom } := rfl

/-- What every address reads as after a power-on. -/
theorem read_hostPowerOn (fs : Vector Byte 80) (fb : Vector Byte 160) (s : State) (a : Nat) :
    (hostPowerOn fs fb s).mem.read a =
      if 0x0A0 ≤ a ∧ a < 0x140 then fb[a - 0x0A0]?.getD 0
      else if 0x050 ≤ a ∧ a < 0x0A0 then fs[a - 0x050]?.getD 0 else 0 := by
  have hwf := Memory.wf_writeBytes wf_blankMemory 0x050 fs.toList
  rw [hostPowerOn_eq, Memory.read_clearRom, Memory.read_writeBytes hwf _ _ (by simp),
    Memory.read_writeBytes wf_blankMemory _ _ (by simp), read_blankMemory]
  simp only [Vector.length_toList, Vector.getElem?_toList, Nat.reduceAdd]
  by_cases hrom : a < 0x200
  · rw [if_pos hrom]
  · rw [if_neg hrom, if_neg (by omega), if_neg (by omega)]

/-- Settles O59: the fonts are stored one behind the other over a memory of zeros, below the area that Reset clears. -/
theorem powerOnLoadsFonts : Obligations.PowerOnLoadsFonts := by
  refine fun fs fb s => ⟨hostPowerOn fs fb s, rfl, fun k hk => ?small, fun k hk => ?big, fun a ha => ?zero, rfl⟩
  case small =>
    rw [read_hostPowerOn, if_neg (by omega), if_pos (by omega), Nat.add_sub_cancel_left, Vector.getElem?_eq_getElem hk,
      Option.getD_some]
  case big =>
    rw [read_hostPowerOn, if_pos (by omega), Nat.add_sub_cancel_left, Vector.getElem?_eq_getElem hk, Option.getD_some]
  case zero => rw [read_hostPowerOn, if_neg (by omega), if_neg (by omega)]

/-! ### Reset (R331) -/

theorem hostReset_reg (s : State) (k : RegIdx) : (hostReset s).reg k = 0 := Vector.getElem_replicate ..

theorem hostReset_keyDown (s : State) (k : RegIdx) : (hostReset s).keyDown k = false := Vector.getElem_replicate ..

theorem hostReset_stack (s : State) {k : Nat} (hk : k < 16) : (hostReset s).stack[k]? = some 0 :=
  Vector.getElem?_replicate.trans (if_pos hk)

theorem hostReset_r (s : State) {k : Nat} (hk : k < 16) : (hostReset s).r[k]? = some 0 :=
  Vector.getElem?_replicate.trans (if_pos hk)

/-- Memory after a reset: the program area is 0, the region below is kept (decision D25). -/
theorem read_hostReset (s : State) (a : Nat) :
    (hostReset s).mem.read a = if a < 0x200 then s.mem.read a else 0 := Memory.read_clearRom ..

/-- Settles O58: the indexed fields by their lemmas, every other field by the reset state itself. -/
theorem resetClears : Obligations.ResetClears := by
  intro s
  refine ⟨hostReset s, rfl, fun a ha => ?below, fun a ha => ?cleared, rfl, hostReset_reg s, rfl, rfl, rfl,
    fun _ => hostReset_stack s, fun _ => hostReset_r s, Plane.pixel_clear 64 32, Plane.pixel_clear 128 64, rfl,
    hostReset_keyDown s, rfl, rfl, rfl, rfl, rfl, rfl, rfl, rfl, rfl, rfl⟩
  case below => rw [read_hostReset, if_pos ha]
  case cleared => rw [read_hostReset, if_neg (Nat.not_lt_of_ge ha)]

end Sys2Proof.Proofs.Reset
end

section
/-! PROOFS. The decoder against the encoder (30_encoding.md R97 to R101): decoding gives back every well-formed
instruction, the words that decode to UNKNOWN are the listed ones, and no word matches two rows. -/

namespace Sys2Proof.Proofs.Decoding

open Sys2Proof.Machine Sys2Proof.Proofs.Encoding Sys2Proof.Proofs.Control Sys2Proof.Proofs.JumpCallSkip
  Sys2Proof.Proofs.Keys

/-- Settles O1, by the format of each instruction (R92); an UNKNOWN word is well formed when it is listed (R101). -/
theorem decodeOfEncode : Obligations.DecodeOfEncode := by
  intro v i hwf
  cases i with
  | cls | ret => cases v <;> rfl
  | scd n => rw [beq_iff_eq.1 hwf]; exact decode_pack .schip 0x0 0x0 0xC n
  | scr | scl | exit | low | high => rw [beq_iff_eq.1 hwf]; rfl
  | jp nnn | call nnn | ldI nnn | jpV0 nnn => exact decodesTo_packA (fun _ _ _ _ => rfl) nnn v
  | seImm x kk | sneImm x kk | ldImm x kk | addImm x kk | rnd x kk => exact decodesTo_packXK (fun _ _ _ _ => rfl) x kk v
  | seReg x y | ldReg x y | orReg x y | andReg x y | xorReg x y | addReg x y | sub x y | shr x y | subn x y | shl x y
  | sneReg x y => exact decodesTo_packXY (fun _ _ _ => rfl) x y v
  | drw x y n => exact decodesTo_packXY (f := fun x y => .drw x y n) (fun _ _ _ => rfl) x y v
  | skp x | sknp x | ldVxDt x | ldVxK x | ldDtVx x | ldStVx x | addI x | ldF x | ldHf x | ldB x | ldMemVx x | ldVxMem x
  | ldRVx x | ldVxR x => exact decodesTo_packXF (fun _ _ => rfl) x v
  | unknown w => exact decode_of_unknownWord hwf

/-! ### The list of R101 by digits -/

theorem unknownWord_fam0 (v : Variant) (b c d : Nibble) : unknownWord v (pack 0x0 b c d) =
    (pack 0x0 b c d != 0x00E0 && pack 0x0 b c d != 0x00EE && !(v == .schip && schipOnlyWord (pack 0x0 b c d))) := by
  have hfam : (pack 0x0 b c d).extractLsb' 12 4 = 0x0 := nib3_pack ..
  rw [unknownWord, hfam]
  rfl

theorem unknownWord_fam5_fam9 (v : Variant) {a : Nibble} (ha : a ∈ [0x5#4, 0x9#4]) (b c d : Nibble) :
    unknownWord v (pack a b c d) = (d != 0x0) := by
  have hfam : (pack a b c d).extractLsb' 12 4 = a := nib3_pack ..
  have hlast : (pack a b c d).extractLsb' 0 4 = d := nib0_pack ..
  rw [unknownWord, hfam, hlast]
  fin_cases ha <;> rfl

theorem unknownWord_fam8 (v : Variant) (b c d : Nibble) : unknownWord v (pack 0x8 b c d) =
    [0x8#4, 0x9#4, 0xA#4, 0xB#4, 0xC#4, 0xD#4, 0xF#4].contains d := by
  have hfam : (pack 0x8 b c d).extractLsb' 12 4 = 0x8 := nib3_pack ..
  have hlast : (pack 0x8 b c d).extractLsb' 0 4 = d := nib0_pack ..
  rw [unknownWord, hfam, hlast]
  rfl

/-- In families E and F the list reads the low byte, the last two digits. -/
theorem extractLow_pack (a b c d : Nibble) : (pack a b c d).extractLsb' 0 8 = fieldKk c d := by
  rw [← packXK_fieldKk]
  exact BitVec.extractLsb'_append_eq_right

theorem unknownWord_famE (v : Variant) (b c d : Nibble) : unknownWord v (pack 0xE b c d) =
    !([0x9E#8, 0xA1#8].contains (fieldKk c d)) := by
  have hfam : (pack 0xE b c d).extractLsb' 12 4 = 0xE := nib3_pack ..
  rw [unknownWord, hfam, extractLow_pack]
  rfl

theorem unknownWord_famF (v : Variant) (b c d : Nibble) : unknownWord v (pack 0xF b c d) =
    !([0x07#8, 0x0A#8, 0x15#8, 0x18#8, 0x1E#8, 0x29#8, 0x30#8, 0x33#8, 0x55#8, 0x65#8, 0x75#8, 0x85#8].contains
      (fieldKk c d)) := by
  have hfam : (pack 0xF b c d).extractLsb' 12 4 = 0xF := nib3_pack ..
  rw [unknownWord, hfam, extractLow_pack]
  rfl

/-! ### A word that decodes to UNKNOWN is listed, family by family -/

/-- The 21 words of R98 by their digits. -/
theorem digits_of_schipOnlyWord {b c d : Nibble} (h : schipOnlyWord (pack 0x0 b c d) = true) :
    b = 0x0 ∧ (c = 0xC ∨ c = 0xF ∧ d ∈ [0xB#4, 0xC#4, 0xD#4, 0xE#4, 0xF#4]) := by
  have hvalue := toNat_pack 0x0 b c d
  simp only [schipOnlyWord, Bool.or_eq_true, Bool.and_eq_true, decide_eq_true_eq, BitVec.le_def, hvalue] at h
  simp only [List.mem_cons, List.not_mem_nil, or_false]
  bv_omega

theorem decodeFam0_of_schipOnlyWord {b c d : Nibble} (h : schipOnlyWord (pack 0x0 b c d) = true) (w : Word) :
    decodeFam0 .schip b c d ≠ .unknown w := by
  obtain ⟨rfl, rfl | ⟨rfl, hd⟩⟩ := digits_of_schipOnlyWord h
  · exact nofun
  · fin_cases hd <;> exact nofun

theorem unknownWord_of_decodeFam0 {v : Variant} {b c d : Nibble} {w : Word} (h : decodeFam0 v b c d = .unknown w) :
    unknownWord v (pack 0x0 b c d) = true := by
  have hcls : pack 0x0 b c d ≠ 0x00E0 := by
    intro he
    obtain ⟨-, rfl, rfl, rfl⟩ := pack_inj (a' := 0x0) (b' := 0x0) (c' := 0xE) (d' := 0x0) he
    cases h
  have hret : pack 0x0 b c d ≠ 0x00EE := by
    intro he
    obtain ⟨-, rfl, rfl, rfl⟩ := pack_inj (a' := 0x0) (b' := 0x0) (c' := 0xE) (d' := 0xE) he
    cases h
  have hschip : v = .schip → schipOnlyWord (pack 0x0 b c d) = false := by
    rintro rfl
    exact Bool.eq_false_iff.2 fun hlisted => decodeFam0_of_schipOnlyWord hlisted w h
  rw [unknownWord_fam0]
  cases v <;> simp_all

theorem unknownWord_of_decodeFam5 {v : Variant} {b c d : Nibble} {w : Word} (h : decodeFam5 b c d = .unknown w) :
    unknownWord v (pack 0x5 b c d) = true := by
  rw [unknownWord_fam5_fam9 v (by decide), bne_iff_ne]
  rintro rfl
  cases h

theorem unknownWord_of_decodeFam9 {v : Variant} {b c d : Nibble} {w : Word} (h : decodeFam9 b c d = .unknown w) :
    unknownWord v (pack 0x9 b c d) = true := by
  rw [unknownWord_fam5_fam9 v (by decide), bne_iff_ne]
  rintro rfl
  cases h

theorem unknownWord_of_decodeFam8 {v : Variant} {b c d : Nibble} {w : Word} (h : decodeFam8 b c d = .unknown w) :
    unknownWord v (pack 0x8 b c d) = true := by
  rw [unknownWord_fam8, List.contains_iff_mem]
  have hdigit : d ∈ [0x0#4, 0x1#4, 0x2#4, 0x3#4, 0x4#4, 0x5#4, 0x6#4, 0x7#4, 0xE#4] ∨
      d ∈ [0x8#4, 0x9#4, 0xA#4, 0xB#4, 0xC#4, 0xD#4, 0xF#4] := by
    clear h
    revert d
    decide
  refine hdigit.resolve_left fun hd => ?_
  fin_cases hd <;> cases h

/-- A low byte of a list is two digits, which the decoder of the family can test. -/
theorem forall_fieldKk_ne {p : Nibble → Nibble → Prop} {kks : List Byte} (hp : ∀ kk ∈ kks, ¬p (kkHi kk) (kkLo kk))
    {c d : Nibble} (h : p c d) : fieldKk c d ∉ kks := by
  intro hmem
  have hword : pack 0 0 c d = pack 0 0 (kkHi (fieldKk c d)) (kkLo (fieldKk c d)) := by
    rw [← packXK_fieldKk, packXK_eq]
    rfl
  obtain ⟨-, -, hc, hd⟩ := pack_inj hword
  apply hp _ hmem
  rwa [← hc, ← hd]

theorem unknownWord_of_decodeFamE {v : Variant} {b c d : Nibble} {w : Word} (h : decodeFamE b c d = .unknown w) :
    unknownWord v (pack 0xE b c d) = true := by
  rw [unknownWord_famE, Bool.not_eq_true', ← Bool.not_eq_true, List.contains_iff_mem]
  refine forall_fieldKk_ne (p := fun c d => decodeFamE b c d = .unknown w) (fun kk hkk => ?_) h
  fin_cases hkk <;> exact nofun

theorem unknownWord_of_decodeFamF {v : Variant} {b c d : Nibble} {w : Word} (h : decodeFamF b c d = .unknown w) :
    unknownWord v (pack 0xF b c d) = true := by
  rw [unknownWord_famF, Bool.not_eq_true', ← Bool.not_eq_true, List.contains_iff_mem]
  refine forall_fieldKk_ne (p := fun c d => decodeFamF b c d = .unknown w) (fun kk hkk => ?_) h
  fin_cases hkk <;> exact nofun

theorem unknownWord_of_decode {v : Variant} {w : Word} (h : decode v w = .unknown w) : unknownWord v w = true := by
  obtain ⟨a, b, c, d, rfl⟩ : ∃ a b c d, w = pack a b c d := ⟨_, _, _, _, (pack_nibs w).symm⟩
  rw [decode_pack] at h
  have hfam : a ∈ [0x1#4, 0x2#4, 0x3#4, 0x4#4, 0x6#4, 0x7#4, 0xA#4, 0xB#4, 0xC#4, 0xD#4] ∨
      a ∈ [0x0#4, 0x5#4, 0x8#4, 0x9#4, 0xE#4, 0xF#4] := by
    clear h
    revert a
    decide
  obtain hfull | hpart := hfam
  · fin_cases hfull <;> cases h
  · fin_cases hpart
    exacts [unknownWord_of_decodeFam0 h, unknownWord_of_decodeFam5 h, unknownWord_of_decodeFam8 h,
      unknownWord_of_decodeFam9 h, unknownWord_of_decodeFamE h, unknownWord_of_decodeFamF h]

/-- Settles O5: family by family, the tests that the decoder of a family makes are the entries its list leaves out. -/
theorem unknownWordsAreTheListed : Obligations.UnknownWordsAreTheListed :=
  fun _ _ => ⟨unknownWord_of_decode, decode_of_unknownWord⟩

/-- Settles O2: the encoder gives back the word (`encode_decode`); an instruction other than UNKNOWN is well formed by
the variant gate, and UNKNOWN because its word is listed. -/
theorem encodeOfDecode : Obligations.EncodeOfDecode := by
  refine fun v w => ⟨?_, encode_decode v w⟩
  by_cases hi : ∃ w', decode v w = .unknown w'
  · obtain ⟨w', hw'⟩ := hi
    obtain rfl := eq_of_decode_eq_unknown hw'
    rw [hw']
    exact unknownWord_of_decode hw'
  · exact wellFormed_of_ne_unknown (not_exists.1 hi) variant_of_decode_schipOnly

/-- Settles O4: a word that matches two rows decodes to both of them, so they are one row, and the 43 rows are
distinct. -/
theorem opcodeRowsDisjoint : Obligations.OpcodeRowsDisjoint := by
  have hnodup : opcodeMap.Nodup := by decide
  refine List.Pairwise.imp_of_mem (fun {p q} hp hq hne v w ⟨hpw, hqw⟩ => hne ?_) hnodup
  exact (rowDecodes_of_mem_opcodeMap p hp v w hpw).symm.trans (rowDecodes_of_mem_opcodeMap q hq v w hqw)

/-- Settles O7: the decoder evaluated on each word. -/
theorem exampleWordsDecode : Obligations.ExampleWordsDecode := by
  refine ⟨?_, ?_, ?_, ?_, ?_, ?_, ?_, ?_, ?_, ?_, ?_, rfl⟩ <;>
  · intro v
    cases v <;> rfl

end Sys2Proof.Proofs.Decoding
end

section
/-! PROOFS. What an instruction may write and where it leaves PC: said once for every instruction, with the writers of
each field (10_state.md R23 to R39, 20_memory.md R64) as corollaries. -/

namespace Sys2Proof.Proofs.Writers

open Sys2Proof.Machine Sys2Proof.Proofs.Control Sys2Proof.Proofs.JumpCallSkip Sys2Proof.Proofs.LoadAlu
  Sys2Proof.Proofs.IndexJump Sys2Proof.Proofs.Draw Sys2Proof.Proofs.Faults Sys2Proof.Proofs.FamilyF

/-! ### The frame of every instruction -/

/-- s with the fields that instruction i writes when it completes taken from t; memory and I after a block transfer are
the model's own. -/
def written (i : Instr) (s t : State) : State :=
  match i with
  | .cls => { s with pc := t.pc, fbLo := t.fbLo, fbHi := t.fbHi, changed := true }
  | .ret => { s with pc := t.pc, sp := t.sp }
  | .scd _ => { s with pc := t.pc, scrollY := t.scrollY }
  | .scr | .scl => { s with pc := t.pc, scrollX := t.scrollX }
  | .exit => { s with pc := t.pc, running := false }
  | .low | .high => { s with pc := t.pc, highRes := t.highRes }
  | .jp _ | .jpV0 _ | .seImm _ _ | .sneImm _ _ | .seReg _ _ | .sneReg _ _ | .skp _ | .sknp _ | .unknown _ =>
    { s with pc := t.pc }
  | .call _ => { s with pc := t.pc, sp := t.sp, stack := t.stack }
  | .ldImm _ _ | .addImm _ _ | .ldReg _ _ | .orReg _ _ | .andReg _ _ | .xorReg _ _ | .addReg _ _ | .sub _ _ | .shr _ _
  | .subn _ _ | .shl _ _ | .ldVxDt _ | .ldVxR _ => { s with pc := t.pc, v := t.v }
  | .ldI _ | .ldF _ | .ldHf _ => { s with pc := t.pc, i := t.i }
  | .rnd _ _ => { s with pc := t.pc, v := t.v, draws := t.draws }
  | .drw _ _ n => { s with
      pc := t.pc, v := t.v, changed := s.changed || t.changed
      fbLo := if (geometry s.variant s.highRes n).hi then s.fbLo else t.fbLo
      fbHi := if (geometry s.variant s.highRes n).hi then t.fbHi else s.fbHi }
  | .ldVxK _ => { s with pc := t.pc, v := t.v, waitKey := t.waitKey, waitIndex := t.waitIndex, waiting := t.waiting }
  | .ldDtVx _ => { s with pc := t.pc, dt := t.dt }
  | .ldStVx _ => { s with pc := t.pc, st := t.st }
  | .addI _ => { s with pc := t.pc, v := t.v, i := t.i }
  | .ldB x => { s with pc := t.pc, mem := s.mem.writeBytes s.i.toNat (bcd (s.reg x)) }
  | .ldMemVx x =>
    { s with pc := t.pc, mem := s.mem.writeBytes s.i.toNat (regBlock s x), i := indexAfterBlock s x }
  | .ldVxMem x => { s with pc := t.pc, v := t.v, i := indexAfterBlock s x }
  | .ldRVx _ => { s with pc := t.pc, r := t.r }

/-- No instruction writes an input (10_state.md R31, R41). -/
theorem written_inputs (i : Instr) (s t : State) :
    (written i s t).key = s.key ∧ (written i s t).variant = s.variant := by
  cases i <;> exact ⟨rfl, rfl⟩

/-- Completing records no fault (R37), and only EXIT stops the machine (R36). -/
theorem written_faultCause (i : Instr) (s t : State) : (written i s t).faultCause = s.faultCause := by
  cases i <;> rfl

theorem written_running {i : Instr} (hi : i ≠ .exit) (s t : State) : (written i s t).running = s.running := by
  cases i with
  | exit => exact absurd rfl hi
  | _ => rfl

/-- The six conditional skips (41_jump_call_skip.md R139, 45_keys.md). -/
def IsSkip (i : Instr) : Prop :=
  (∃ x kk, i = .seImm x kk ∨ i = .sneImm x kk) ∨ (∃ x y, i = .seReg x y ∨ i = .sneReg x y) ∨
    ∃ x, i = .skp x ∨ i = .sknp x

/-- The clauses of R23 for an instruction that completes: what ProgramCounterRule says of it. -/
def PcAfter (i : Instr) (s t : State) : Prop :=
  t.pc = s.pc + 2 ∨
  (∃ nnn, (i = .jp nnn ∨ i = .call nnn) ∧ t.pc.toNat = nnn.toNat) ∨
  (∃ nnn, i = .jpV0 nnn ∧ nnn.toNat ≤ t.pc.toNat ∧ t.pc.toNat ≤ nnn.toNat + 255) ∨
  (i = .ret ∧ s.stack[s.sp.val - 1]? = some t.pc) ∨
  (t.pc = s.pc + 4 ∧ IsSkip i) ∨
  (t.pc = s.pc ∧ t.waiting = true ∧ ∃ x, i = .ldVxK x)

/-- An instruction completes in a state, inside its frame and by the rule for PC. -/
def Completes (i : Instr) (s : State) : Prop := ∃ t, exec i s = .next t ∧ t = written i s t ∧ PcAfter i s t

/-- An instruction that raises no fault has its whole access in memory (20_memory.md R70). -/
theorem accessOk_of_faultOf_eq_none {i : Instr} {s : State} (hf : faultOf i s = .none) :
    accessOk s.i (accessBytes i s) = true := by
  rw [accessOk_iff]
  cases i with
  | drw x y n | ldB x | ldMemVx x | ldVxMem x =>
    have hin := ite_eq_right_iff.1 hf
    by_contra hout
    exact absurd (hin (by omega)) (by decide)
  | _ => exact .inl rfl

theorem completes_ret {s : State} (hf : faultOf .ret s = .none) : Completes .ret s := by
  obtain ⟨hsp, -⟩ | ⟨-, w, t, hpop, htop, -, ht⟩ := s.pop_cases
  · exact absurd ((if_pos hsp).symm.trans hf) (by decide)
  · exact ⟨t.setPc w, exec_ret_of_pop hpop, congrArg (·.setPc w) ht, .inr (.inr (.inr (.inl ⟨rfl, htop⟩)))⟩

theorem completes_call {nnn : Addr12} {s : State} (hf : faultOf (.call nnn) s = .none) : Completes (.call nnn) s := by
  obtain ⟨hsp, -⟩ | ⟨-, t, hpush, -, ht, -⟩ := s.push_cases (s.pc + 2)
  · exact absurd ((if_pos hsp).symm.trans hf) (by decide)
  · exact ⟨t.setPc (addrOf nnn), exec_call_of_push nnn hpush, congrArg (·.setPc (addrOf nnn)) ht,
      .inr (.inl ⟨nnn, .inr rfl, addrOf_toNat nnn⟩)⟩

theorem completes_jpV0 (nnn : Addr12) (s : State) : Completes (.jpV0 nnn) s := by
  have hsum := addrOf_add_wordOf_toNat nnn (jumpOffset s nnn)
  have hbyte := (jumpOffset s nnn).isLt
  refine ⟨_, exec_jpV0 nnn s, rfl, .inr (.inr (.inl ⟨nnn, rfl, ?_, ?_⟩))⟩
  · rw [State.setPc_pc, hsum]
    omega
  · rw [State.setPc_pc, hsum]
    omega

theorem completes_of_skipIf {i : Instr} {s : State} {b : Bool} (hexec : exec i s = .next (s.skipIf b))
    (hframe : written i s (s.skipIf b) = { s with pc := (s.skipIf b).pc }) (hskip : IsSkip i) : Completes i s := by
  refine ⟨_, hexec, (onlyPc_skipIf s b).1.trans hframe.symm, ?_⟩
  cases b with
  | false => exact .inl rfl
  | true => exact .inr (.inr (.inr (.inr (.inl ⟨BitVec.add_assoc s.pc 2 2, hskip⟩))))

theorem completes_of_clearVF {i : Instr} {s : State} {x : RegIdx} {res : Byte}
    (hexec : exec i s = .next (s.advance.setReg x res).clearVFIfChip8)
    (hframe : ∀ t, written i s t = { s with pc := t.pc, v := t.v }) : Completes i s := by
  have hregs := onlyPcRegs_clearVFIfChip8 (onlyPcRegs_advance_setReg s x [vfIdx] res) (by simp)
  exact ⟨_, hexec, hregs.1.trans (hframe _).symm, .inl (State.clearVFIfChip8_pc _)⟩

theorem completes_drw {x y : RegIdx} {n : Nibble} {s : State} (hf : faultOf (.drw x y n) s = .none) :
    Completes (.drw x y n) s := by
  refine ⟨_, exec_drw_of_inRange rfl (accessOk_of_faultOf_eq_none hf) x y, ?_, ?_⟩
  · cases hplane : (geometry s.variant s.highRes n).hi with
    | false => simp [written, drawInto_lo, hplane]
    | true => simp [written, drawInto_hi, hplane]
  · cases (geometry s.variant s.highRes n).hi <;> exact .inl rfl

/-- The key wait (46_family_F.md R246): it goes on waiting at the same PC, or it completes and clears its state. -/
theorem exec_ldVxK_cases (x : RegIdx) (s : State) : ∃ t, exec (.ldVxK x) s = .next t ∧
    (t = { s with waitKey := t.waitKey, waitIndex := t.waitIndex, waiting := true } ∨
      t = { s with pc := s.pc + 2, v := t.v, waitKey := false, waiting := false }) := by
  cases hwait : s.waitKey with
  | true =>
    cases hkey : s.keyDown s.waitIndex with
    | true => exact ⟨_, exec_ldVxK_of_held x hwait hkey, .inl rfl⟩
    | false => exact ⟨_, exec_ldVxK_of_released x hwait hkey, .inr rfl⟩
  | false =>
    cases hscan : s.firstKeyDown with
    | none => exact ⟨_, exec_ldVxK_of_noKey x hwait hscan, .inl rfl⟩
    | some k => exact ⟨_, exec_ldVxK_of_keySeen x hwait hscan, .inl rfl⟩

theorem completes_ldVxK (x : RegIdx) (s : State) : Completes (.ldVxK x) s := by
  obtain ⟨t, hexec, ht | ht⟩ := exec_ldVxK_cases x s
  · refine ⟨t, hexec, ?_, .inr (.inr (.inr (.inr (.inr ⟨?_, ?_, x, rfl⟩))))⟩
    · rw [ht]; rfl
    · rw [ht]
    · rw [ht]
  · refine ⟨t, hexec, ?_, .inl ?_⟩
    · rw [ht]; rfl
    · rw [ht]

/-- Every instruction that raises no fault completes. -/
theorem completes_of_faultOf_eq_none {i : Instr} {s : State} (hf : faultOf i s = .none) : Completes i s := by
  cases i with
  | ret => exact completes_ret hf
  | call nnn => exact completes_call hf
  | jp nnn => exact ⟨_, exec_jp nnn s, rfl, .inr (.inl ⟨nnn, .inl rfl, addrOf_toNat nnn⟩)⟩
  | jpV0 nnn => exact completes_jpV0 nnn s
  | seImm x kk => exact completes_of_skipIf rfl rfl (.inl ⟨x, kk, .inl rfl⟩)
  | sneImm x kk => exact completes_of_skipIf rfl rfl (.inl ⟨x, kk, .inr rfl⟩)
  | seReg x y => exact completes_of_skipIf rfl rfl (.inr (.inl ⟨x, y, .inl rfl⟩))
  | sneReg x y => exact completes_of_skipIf rfl rfl (.inr (.inl ⟨x, y, .inr rfl⟩))
  | skp x => exact completes_of_skipIf rfl rfl (.inr (.inr ⟨x, .inl rfl⟩))
  | sknp x => exact completes_of_skipIf rfl rfl (.inr (.inr ⟨x, .inr rfl⟩))
  | orReg x y | andReg x y | xorReg x y => exact completes_of_clearVF rfl fun _ => rfl
  | drw x y n => exact completes_drw hf
  | ldVxK x => exact completes_ldVxK x s
  | ldB x => exact ⟨_, if_pos (accessOk_of_faultOf_eq_none hf), rfl, .inl rfl⟩
  | ldMemVx x => exact ⟨_, if_pos (accessOk_of_faultOf_eq_none hf), rfl, .inl rfl⟩
  | ldVxMem x => exact ⟨_, if_pos (accessOk_of_faultOf_eq_none hf), rfl, .inl rfl⟩
  | cls | scd n | scr | scl | exit | low | high | ldImm x kk | addImm x kk | ldReg x y | addReg x y | sub x y | shr x y
  | subn x y | shl x y | ldI nnn | rnd x kk | ldVxDt x | ldDtVx x | ldStVx x | addI x | ldF x | ldHf x | ldRVx x
  | ldVxR x | unknown w => exact ⟨_, rfl, rfl, .inl rfl⟩

/-- Everything exec can answer (60_exceptions.md R284). -/
theorem exec_cases {i : Instr} {s t : State} (h : exec i s = .next t) :
    (faultOf i s ≠ .none ∧ t = s.raise (faultOf i s)) ∨
    (faultOf i s = .none ∧ t = written i s t ∧ PcAfter i s t) := by
  by_cases hf : faultOf i s = .none
  · obtain ⟨u, hexec, hu⟩ := completes_of_faultOf_eq_none hf
    rw [h] at hexec
    cases hexec
    exact .inr ⟨hf, hu⟩
  · have hexec := (faultsExactlyByTheTable i s).1 hf
    rw [h] at hexec
    cases hexec
    exact .inl ⟨hf, rfl⟩

/-- What an instruction changes is among what it writes, unless it is something a fault writes. -/
theorem written_ne_of_ne {α : Type} (f : State → α) {i : Instr} {s t : State} (hraise : ∀ c, f (s.raise c) = f s)
    (h : exec i s = .next t) (hne : f t ≠ f s) : faultOf i s = .none ∧ f (written i s t) ≠ f s := by
  obtain ⟨-, ht⟩ | ⟨hf, ht, -⟩ := exec_cases h
  · exact absurd ((congrArg f ht).trans (hraise _)) hne
  · exact ⟨hf, fun hw => hne ((congrArg f ht).trans hw)⟩

/-- Settles O22: a fault keeps PC (R284), and an instruction that completes follows `PcAfter`. -/
theorem programCounterRule : Obligations.ProgramCounterRule := by
  intro i s t h
  obtain ⟨hf, ht⟩ | ⟨hf, -, hpc⟩ := exec_cases h
  · exact ⟨fun _ => ht ▸ rfl, fun hnone => absurd hnone hf⟩
  · exact ⟨fun hfault => absurd hf hfault, fun _ => hpc⟩

/-! ### The writers of each field -/

/-- Settles O18: a field that an instruction does not write is the old one in `written`. -/
theorem indexTimersFlagRegistersWriters : Obligations.IndexTimersFlagRegistersWriters := by
  refine fun i s t h => ⟨fun hne => ?index, fun hne => ?flags, fun hne => ?delay, fun hne => ?sound⟩
  case index =>
    obtain ⟨-, hw⟩ := written_ne_of_ne State.i (fun _ => rfl) h hne
    have hblock {x : RegIdx} (hx : indexAfterBlock s x ≠ s.i) : s.variant = .chip8 := by
      cases hv : s.variant with
      | chip8 => rfl
      | schip => exact absurd (indexAfterBlock_schip hv x) hx
    cases i with
    | ldI nnn => exact .inl ⟨nnn, rfl⟩
    | addI x => exact .inr (.inl ⟨x, .inl rfl⟩)
    | ldF x => exact .inr (.inl ⟨x, .inr (.inl rfl)⟩)
    | ldHf x => exact .inr (.inl ⟨x, .inr (.inr rfl)⟩)
    | ldMemVx x => exact .inr (.inr ⟨hblock hw, x, .inl rfl⟩)
    | ldVxMem x => exact .inr (.inr ⟨hblock hw, x, .inr rfl⟩)
    | _ => exact absurd rfl hw
  case flags =>
    obtain ⟨-, hw⟩ := written_ne_of_ne State.r (fun _ => rfl) h hne
    cases i with
    | ldRVx x => exact ⟨x, rfl⟩
    | _ => exact absurd rfl hw
  case delay =>
    obtain ⟨-, hw⟩ := written_ne_of_ne State.dt (fun _ => rfl) h hne
    cases i with
    | ldDtVx x => exact ⟨x, rfl⟩
    | _ => exact absurd rfl hw
  case sound =>
    obtain ⟨-, hw⟩ := written_ne_of_ne State.st (fun _ => rfl) h hne
    cases i with
    | ldStVx x => exact ⟨x, rfl⟩
    | _ => exact absurd rfl hw

/-- A byte that a store changes is one of the bytes stored. -/
theorem mem_range_of_writeBytes_ne {m : Memory} (hm : m.wf = true) {a b len : Nat} {bs : List Byte}
    (hlen : bs.length = len) (hlast : a + len ≤ 4096) (hne : (m.writeBytes a bs).read b ≠ m.read b) :
    a ≤ b ∧ b < a + len := by
  subst hlen
  by_contra hout
  exact hne (by rw [Memory.read_writeBytes hm a bs hlast, if_neg hout])

/-- Settles O19: the two instructions that write memory store their bytes from I, within memory. -/
theorem memoryWriters : Obligations.MemoryWriters := by
  intro i s t hm h a hne
  obtain ⟨hf, hw⟩ := written_ne_of_ne (fun u => u.mem.read a) (fun _ => rfl) h hne
  have hin := (accessOk_iff ..).1 (accessOk_of_faultOf_eq_none hf)
  cases i with
  | ldB x =>
    have hlast : s.i.toNat + 3 ≤ 4096 := by simp only [accessBytes] at hin; omega
    exact .inl ⟨x, rfl, mem_range_of_writeBytes_ne hm (bcd_length _) hlast hw⟩
  | ldMemVx x =>
    have hlast : s.i.toNat + (x.val + 1) ≤ 4096 := by simp only [accessBytes] at hin; omega
    exact .inr ⟨x, rfl, mem_range_of_writeBytes_ne hm (regBlock_length s x) hlast hw⟩
  | _ => exact absurd rfl hw

/-- Which plane a draw goes to, by variant and resolution (R201). -/
theorem geometry_hi_iff (v : Variant) (highRes : Bool) (n : Nibble) :
    (geometry v highRes n).hi = true ↔ v = .schip ∧ highRes = true := by
  cases v with
  | chip8 => simp [geometry]
  | schip =>
    cases highRes with
    | false => simp [geometry]
    | true =>
      have hhi : (geometry .schip true n).hi = true := by
        unfold geometry
        split_ifs <;> rfl
      simp [hhi]

/-- Settles O20: besides 00E0 only a draw writes a plane, and its geometry picks which one. -/
theorem planeWriters : Obligations.PlaneWriters := by
  refine fun i s t h => ⟨fun hne => ?low, fun hne => ?high, fun hne => ?changed⟩
  case low =>
    obtain ⟨-, hw⟩ := written_ne_of_ne State.fbLo (fun _ => rfl) h hne
    cases i with
    | cls => exact .inl rfl
    | drw x y n =>
      have hplane : ¬(geometry s.variant s.highRes n).hi = true := fun hhi => hw (if_pos hhi)
      rw [geometry_hi_iff] at hplane
      refine .inr ⟨?_, x, y, n, rfl⟩
      cases hv : s.variant <;> simp_all
    | _ => exact absurd rfl hw
  case high =>
    obtain ⟨-, hw⟩ := written_ne_of_ne State.fbHi (fun _ => rfl) h hne
    cases i with
    | cls => exact .inl rfl
    | drw x y n =>
      have hplane : (geometry s.variant s.highRes n).hi = true := by
        by_contra hlo
        exact hw (if_neg hlo)
      obtain ⟨hv, hres⟩ := (geometry_hi_iff ..).1 hplane
      exact .inr ⟨hv, hres, x, y, n, rfl⟩
    | _ => exact absurd rfl hw
  case changed =>
    obtain ⟨-, hw⟩ := written_ne_of_ne State.changed (fun _ => rfl) h hne
    have hset (hs : s.changed = false) : t.changed = true := Bool.of_not_eq_false fun ht => hne (ht.trans hs.symm)
    cases i with
    | cls => exact ⟨hset (by simpa [written] using hw), .inl rfl⟩
    | drw x y n =>
      have hwas : s.changed = false := by
        by_contra hs
        simp [written, hs] at hw
      exact ⟨hset hwas, .inr ⟨x, y, n, rfl⟩⟩
    | _ => exact absurd rfl hw

/-- Settles O21: each field is written by the instructions named and no other. -/
theorem modeStackAndWaitWriters : Obligations.ModeStackAndWaitWriters := by
  refine fun i s t h => ⟨fun hne => ?scrollX, fun hne => ?scrollY, fun hne => ?resolution, fun hne => ?depth,
    fun hne => ?entries, fun hne => ?keyWait⟩
  case scrollX =>
    obtain ⟨-, hw⟩ := written_ne_of_ne State.scrollX (fun _ => rfl) h hne
    cases i with
    | scr => exact .inl rfl
    | scl => exact .inr rfl
    | _ => exact absurd rfl hw
  case scrollY =>
    obtain ⟨-, hw⟩ := written_ne_of_ne State.scrollY (fun _ => rfl) h hne
    cases i with
    | scd n => exact ⟨n, rfl⟩
    | _ => exact absurd rfl hw
  case resolution =>
    obtain ⟨-, hw⟩ := written_ne_of_ne State.highRes (fun _ => rfl) h hne
    cases i with
    | low => exact .inl rfl
    | high => exact .inr rfl
    | _ => exact absurd rfl hw
  case depth =>
    obtain ⟨-, hw⟩ := written_ne_of_ne State.sp (fun _ => rfl) h hne
    cases i with
    | ret => exact .inl rfl
    | call nnn => exact .inr ⟨nnn, rfl⟩
    | _ => exact absurd rfl hw
  case entries =>
    obtain ⟨-, hw⟩ := written_ne_of_ne State.stack (fun _ => rfl) h hne
    cases i with
    | call nnn => exact ⟨nnn, rfl⟩
    | _ => exact absurd rfl hw
  case keyWait =>
    have hne' : (t.waitKey, t.waitIndex, t.waiting) ≠ (s.waitKey, s.waitIndex, s.waiting) := by
      intro he
      simp only [Prod.mk.injEq] at he
      obtain ⟨hkey, hindex, hwaiting⟩ := he
      simp [hkey, hindex, hwaiting] at hne
    obtain ⟨-, hw⟩ := written_ne_of_ne (fun u => (u.waitKey, u.waitIndex, u.waiting)) (fun _ => rfl) h hne'
    cases i with
    | ldVxK x => exact ⟨x, rfl⟩
    | _ => exact absurd rfl hw

theorem inputs_of_exec {i : Instr} {s t : State} (h : exec i s = .next t) : t.key = s.key ∧ t.variant = s.variant := by
  obtain ⟨-, rfl⟩ | ⟨-, ht, -⟩ := exec_cases h
  · exact ⟨rfl, rfl⟩
  · rw [ht]
    exact written_inputs i s t

/-- Settles O17: no instruction writes an input, and a step writes what its instruction writes. -/
theorem inputsNeverWrittenByCore : Obligations.InputsNeverWrittenByCore := by
  intro s t h
  obtain ⟨-, rfl⟩ | ⟨-, -, rfl⟩ | ⟨-, -, hexec⟩ := step_cases h
  · exact ⟨rfl, rfl⟩
  · exact ⟨rfl, rfl⟩
  · exact inputs_of_exec hexec

end Sys2Proof.Proofs.Writers
end

section
/-! PROOFS. The reset state (70_reset_and_hazards.md R330, R331; 10_state.md R46): what power-on leaves of memory. -/

namespace Sys2Proof.Proofs.PowerOn

open Sys2Proof.Machine Sys2Proof.Proofs.Reset

/-- The machine's own fonts are what an unlisted address reads as. -/
theorem read_hostPowerOn_ownFonts (s : State) (a : Nat) :
    (hostPowerOn Config.fontSmall Config.fontBig s).mem.read a = powerOnByte a := by
  simp only [read_hostPowerOn, powerOnByte, Config.fontSmallBase, Config.fontBigBase, Config.fontEnd]
  by_cases hlow : a < 0x050
  · rw [if_neg (by omega), if_neg (by omega), if_pos hlow]
  · by_cases hsmall : a < 0x0A0
    · rw [if_neg (by omega), if_pos (by omega), if_neg hlow, if_pos hsmall]
    · by_cases hbig : a < 0x140
      · rw [if_pos (by omega), if_neg hlow, if_neg hsmall, if_pos hbig]
      · rw [if_neg (by omega), if_neg (by omega), if_neg hlow, if_neg hsmall, if_neg hbig]

theorem wf_hostPowerOn (fs : Vector Byte 80) (fb : Vector Byte 160) (s : State) :
    (hostPowerOn fs fb s).mem.wf = true :=
  Memory.wfFrom_clearRom (Memory.wf_writeBytes (Memory.wf_writeBytes wf_blankMemory ..) ..)

/-- Settles O60: canonical memories that read the same are the same, so the memory is the empty list. -/
theorem resetStateIsPowerOn : Obligations.ResetStateIsPowerOn := by
  intro s
  have hmem : (hostPowerOn Config.fontSmall Config.fontBig s).mem = [] :=
    Memory.ext_of_read (lo := 0) (wf_hostPowerOn ..) rfl (read_hostPowerOn_ownFonts s)
  calc hostPowerOn Config.fontSmall Config.fontBig s
    _ = { hostReset s with mem := (hostPowerOn Config.fontSmall Config.fontBig s).mem } := rfl
    _ = { State.reset with variant := s.variant, draws := s.draws } := by rw [hmem]; rfl

end Sys2Proof.Proofs.PowerOn
end

section
/-! PROOFS. The invariant of the machine and its lifecycle: every step and every host operation keeps the invariant,
only EXIT and a fault stop the machine (10_state.md R36), and only a reset restarts it (60_exceptions.md R285). -/

namespace Sys2Proof.Proofs.Invariant

open Sys2Proof.Machine Sys2Proof.Proofs.Encoding Sys2Proof.Proofs.Control Sys2Proof.Proofs.JumpCallSkip
  Sys2Proof.Proofs.Writers

/-! ### The parts of the invariant, kept by an instruction -/

theorem wf_mem_of_exec {i : Instr} {s t : State} (hm : s.mem.wf = true) (h : exec i s = .next t) : t.mem.wf = true := by
  obtain ⟨-, rfl⟩ | ⟨-, ht, -⟩ := exec_cases h
  · exact hm
  · rw [ht]
    cases i with
    | ldB x | ldMemVx x => exact Memory.wf_writeBytes hm ..
    | _ => exact hm

/-- The largest PC an instruction leaves is that of Bnnn, 0xFFF + 0xFF (10_state.md R23). -/
theorem pc_le_of_exec {i : Instr} {s t : State} (hinv : s.Inv) (hfetch : s.pc.toNat + 1 ≤ 4095)
    (h : exec i s = .next t) : t.pc.toNat ≤ 0x10FE := by
  obtain ⟨-, rfl⟩ | ⟨hf, -, hpc⟩ := exec_cases h
  · rw [State.raise_pc]
    omega
  · obtain hnext | ⟨nnn, -, hjump⟩ | ⟨nnn, -, -, hoffset⟩ | ⟨rfl, htop⟩ | ⟨hskip, -⟩ | ⟨hwait, -⟩ := hpc
    · rw [hnext]
      bv_omega
    · have := nnn.isLt
      omega
    · have := nnn.isLt
      omega
    · have hsp : 0 < s.sp.val := by
        by_contra hempty
        exact absurd ((if_pos (by omega)).symm.trans hf) (by decide)
      have := top_entry_bounds hinv hsp htop
      omega
    · rw [hskip]
      bv_omega
    · rw [hwait]
      omega

/-- The valid entries of the stack are return addresses (40_family0_control.md R122). -/
def StackInv (s : State) : Prop :=
  ∀ k : Fin 16, k.val < s.sp.val → 2 ≤ (s.stack[k.val]).toNat ∧ (s.stack[k.val]).toNat ≤ 4096

theorem stackInv_of_le {s t : State} (hs : StackInv s) (hsp : t.sp.val ≤ s.sp.val) (hstack : t.stack = s.stack) :
    StackInv t := by
  intro k hk
  rw [hstack]
  exact hs k (by omega)

theorem stackInv_of_call {nnn : Addr12} {s t : State} (hs : StackInv s) (hfetch : s.pc.toNat + 1 ≤ 4095)
    (h : exec (.call nnn) s = .next t) : StackInv t := by
  obtain ⟨-, hpush⟩ | ⟨-, u, hpush, hsp, -, hstack⟩ := s.push_cases (s.pc + 2)
  · rw [exec_call_of_full nnn hpush] at h
    cases h
    exact hs
  · rw [exec_call_of_push nnn hpush] at h
    cases h
    intro k hk
    rw [State.setPc_sp, hsp] at hk
    rw [State.setPc_stack, hstack k k.isLt]
    split
    · bv_omega
    · exact hs k (by omega)

theorem stackInv_of_exec {i : Instr} {s t : State} (hs : StackInv s) (hfetch : s.pc.toNat + 1 ≤ 4095)
    (h : exec i s = .next t) : StackInv t := by
  obtain ⟨-, rfl⟩ | ⟨-, ht, -⟩ := exec_cases h
  · exact hs
  · cases i with
    | call nnn => exact stackInv_of_call hs hfetch h
    | ret =>
      obtain ⟨-, hpop⟩ | ⟨-, w, u, hpop, -, hsp, hu⟩ := s.pop_cases
      · rw [exec_ret_of_empty hpop] at h
        cases h
        exact hs
      · rw [exec_ret_of_pop hpop] at h
        cases h
        exact stackInv_of_le hs (by rw [State.setPc_sp]; omega) (congrArg State.stack ht :)
    | _ => exact stackInv_of_le hs (congrArg (·.sp.val) ht :).le (congrArg State.stack ht :)

/-- A fault is recorded by stopping the machine (10_state.md R40). -/
theorem faultCause_of_exec {i : Instr} {s t : State} (hs : s.faultCause = .none) (h : exec i s = .next t)
    (hrun : t.running = true) : t.faultCause = .none := by
  obtain ⟨-, rfl⟩ | ⟨-, ht, -⟩ := exec_cases h
  · exact absurd hrun Bool.false_ne_true
  · rw [ht, written_faultCause, hs]

theorem waiting_of_exec {i : Instr} {s t : State} (hs : s.waitKey = true → s.waiting = true) (h : exec i s = .next t) :
    t.waitKey = true → t.waiting = true := by
  obtain ⟨-, rfl⟩ | ⟨-, ht, -⟩ := exec_cases h
  · exact hs
  · cases i with
    | ldVxK x =>
      obtain ⟨u, hu, hphase⟩ := exec_ldVxK_cases x s
      obtain rfl : t = u := by simpa [h] using hu
      obtain hwaits | hends := hphase
      · exact fun _ => congrArg State.waiting hwaits
      · exact fun hkey => absurd ((congrArg State.waitKey hends).symm.trans hkey) Bool.false_ne_true
    | _ =>
      have hkey : t.waitKey = s.waitKey := (congrArg State.waitKey ht :)
      have hwaiting : t.waiting = s.waiting := (congrArg State.waiting ht :)
      rwa [hkey, hwaiting]

/-- Settles O11: a stopped machine and a fetch fault keep the registers, and an instruction keeps each part. -/
theorem invariantKeptByStep : Obligations.InvariantKeptByStep := by
  intro s t hinv h
  obtain ⟨hm, hpc, hstack, hcause, hwait⟩ := id hinv
  obtain ⟨-, rfl⟩ | ⟨-, -, rfl⟩ | ⟨hrun, hfetch, hexec⟩ := step_cases h
  · exact hinv
  · exact ⟨hm, hpc, hstack, fun hrun => absurd hrun Bool.false_ne_true, hwait⟩
  · exact ⟨wf_mem_of_exec hm hexec, pc_le_of_exec hinv hfetch hexec, stackInv_of_exec hstack hfetch hexec,
      faultCause_of_exec (hcause hrun) hexec, waiting_of_exec hwait hexec⟩

/-- The reset state meets the invariant whatever canonical memory, variant and count of draws it is given. -/
theorem inv_reset_with {m : Memory} (hm : m.wf = true) (v : Variant) (d : Nat) :
    State.Inv { State.reset with mem := m, variant := v, draws := d } :=
  ⟨hm, (by decide : State.reset.pc.toNat ≤ 0x10FE), fun _ hk => absurd hk (Nat.not_lt_zero _), fun _ => rfl,
    fun h => absurd h Bool.false_ne_true⟩

/-- Settles O12: the empty memory is canonical. -/
theorem invariantAtReset : Obligations.InvariantAtReset := inv_reset_with rfl .chip8 0

/-- The host's load either stores into memory or changes nothing (R305). -/
theorem applyHost_loadRom_cases (bytes : List Byte) (s : State) :
    applyHost (.loadRom bytes) s = s.setMem (s.mem.writeBytes 0x200 bytes) ∨ applyHost (.loadRom bytes) s = s := by
  rw [HostOps.applyHost_loadRom]
  by_cases hfits : bytes.length ≤ 3584
  · rw [HostOps.hostLoadRom_of_fits hfits]
    exact .inl rfl
  · rw [HostOps.hostLoadRom_of_tooLong (by omega)]
    exact .inr rfl

/-- Settles O13: the two resets leave canonical memory in the reset state, a load stores into canonical memory, and the
other operations write no field of the invariant. -/
theorem invariantKeptByHostOps : Obligations.InvariantKeptByHostOps := by
  intro op s hinv
  cases op with
  | powerOn fs fb => exact inv_reset_with (PowerOn.wf_hostPowerOn fs fb s) s.variant s.draws
  | reset => exact inv_reset_with (Memory.wfFrom_clearRom hinv.1) s.variant s.draws
  | loadRom bytes =>
    obtain hload | hload := applyHost_loadRom_cases bytes s
    · rw [hload]
      obtain ⟨hm, hrest⟩ := hinv
      exact ⟨Memory.wf_writeBytes hm .., hrest⟩
    · rw [hload]
      exact hinv
  | setVariant v | setKey k b | timerTick | clearChanged => exact hinv

/-! ### What stops the machine (R36) and what restarts it (R285) -/

/-- The decoder answers EXIT for 00FD under SCHIP and for nothing else (40_family0_control.md R130). -/
theorem of_decode_eq_exit {v : Variant} {w : Word} (h : decode v w = .exit) : v = .schip ∧ w = 0x00FD := by
  have hword : w = encode .exit := by rw [← h, encode_decode]
  exact ⟨variant_of_decode_schipOnly (congrArg (fun i => (opcodePattern i).schipOnly) h), hword⟩

/-- Settles O15: the fetch fault aside, an instruction either faults or, unless it is EXIT, leaves running as it was. -/
theorem stopsOnlyByExitOrFault : Obligations.StopsOnlyByExitOrFault := by
  intro s t hrun h hstop
  obtain ⟨hstopped, -⟩ | ⟨-, -, rfl⟩ | ⟨-, -, hexec⟩ := step_cases h
  · exact absurd (hrun.symm.trans hstopped) (by decide)
  · exact .inr ⟨.fetchFault, by decide, rfl⟩
  · obtain ⟨hf, rfl⟩ | ⟨-, ht, -⟩ := exec_cases hexec
    · exact .inr ⟨_, hf, rfl⟩
    · by_cases hexit : decode s.variant (fetchWord s) = .exit
      · obtain ⟨hv, hw⟩ := of_decode_eq_exit hexit
        rw [hexit] at hexec
        cases hexec
        exact .inl ⟨hv, hw, rfl, rfl⟩
      · rw [ht, written_running hexit, hrun] at hstop
        exact absurd hstop (by decide)

/-- What a FAULTED machine keeps until a reset. -/
def KeepsFault (s t : State) : Prop :=
  t.running = s.running ∧ t.faultCause = s.faultCause ∧ t.pc = s.pc ∧ t.v = s.v ∧ t.fbLo = s.fbLo ∧ t.fbHi = s.fbHi

theorem KeepsFault.trans {s t u : State} (hst : KeepsFault s t) (htu : KeepsFault t u) : KeepsFault s u := by
  obtain ⟨hrun, hcause, hpc, hv, hlo, hhi⟩ := hst
  obtain ⟨hrun', hcause', hpc', hv', hlo', hhi'⟩ := htu
  exact ⟨hrun'.trans hrun, hcause'.trans hcause, hpc'.trans hpc, hv'.trans hv, hlo'.trans hlo, hhi'.trans hhi⟩

/-- A host operation other than the two resets. -/
theorem keepsFault_applyHost {op : HostOp} (hreset : op ≠ .reset) (hpower : ∀ fs fb, op ≠ .powerOn fs fb) (s : State) :
    KeepsFault s (applyHost op s) := by
  cases op with
  | reset => exact absurd rfl hreset
  | powerOn fs fb => exact absurd rfl (hpower fs fb)
  | loadRom bytes =>
    obtain hload | hload := applyHost_loadRom_cases bytes s
    · rw [hload]
      exact ⟨rfl, rfl, rfl, rfl, rfl, rfl⟩
    · rw [hload]
      exact ⟨rfl, rfl, rfl, rfl, rfl, rfl⟩
  | setVariant v | setKey k b | timerTick | clearChanged => exact ⟨rfl, rfl, rfl, rfl, rfl, rfl⟩

/-- An event that is no reset. -/
theorem keepsFault_transition {e : Event} {s : State} (hstop : s.running = false) (hreset : e ≠ .host .reset)
    (hpower : ∀ fs fb, e ≠ .host (.powerOn fs fb)) : ∃ t, transition e s = .next t ∧ KeepsFault s t := by
  cases e with
  | step => exact ⟨s, step_of_stopped hstop, rfl, rfl, rfl, rfl, rfl, rfl⟩
  | host op =>
    have hreset' : op ≠ .reset := fun h => hreset (h ▸ rfl)
    have hpower' (fs fb) : op ≠ .powerOn fs fb := fun h => hpower fs fb (h ▸ rfl)
    exact ⟨applyHost op s, rfl, keepsFault_applyHost hreset' hpower' s⟩

theorem keepsFault_runEvents {es : List Event} {s : State} (hstop : s.running = false)
    (hes : ∀ e ∈ es, e ≠ .host .reset ∧ ∀ fs fb, e ≠ .host (.powerOn fs fb)) :
    ∃ t, runEvents es s = .next t ∧ KeepsFault s t := by
  induction es generalizing s with
  | nil => exact ⟨s, rfl, rfl, rfl, rfl, rfl, rfl, rfl⟩
  | cons e es ih =>
    obtain ⟨he, hrest⟩ := List.forall_mem_cons.1 hes
    obtain ⟨t, hnext, ht⟩ := keepsFault_transition hstop he.1 he.2
    obtain ⟨u, hrun, hu⟩ := ih (ht.1.trans hstop) hrest
    exact ⟨u, (runEvents_cons_next hnext).trans hrun, ht.trans hu⟩

/-- Settles O16, by induction on the events; Reset writes running and the cause from every state. -/
theorem faultedUntilReset : Obligations.FaultedUntilReset := by
  refine ⟨fun es s ⟨hstop, _⟩ hes => ?_, fun s => ⟨hostReset s, rfl, rfl, rfl⟩⟩
  obtain ⟨t, hrun, hkept, hrest⟩ := keepsFault_runEvents hstop hes
  exact ⟨t, hrun, hkept.trans hstop, hrest⟩

end Sys2Proof.Proofs.Invariant
end

section
/-! PROOFS. Instructions in sequence: a return behind its call (40_family0_control.md R122), a block load behind a block
store (20_memory.md R65), a fetch behind a store (R75), and the key wait over time (46_family_F.md R247). -/

namespace Sys2Proof.Proofs.Sequence

open Sys2Proof.Machine Sys2Proof.Proofs.Control Sys2Proof.Proofs.JumpCallSkip Sys2Proof.Proofs.FamilyF

/-! ### One step (30_encoding.md R96) -/

/-- Settles O8: `fetchWord` is the byte at PC followed by the byte behind it. -/
theorem stepRunsDecodedInstruction : Obligations.StepRunsDecodedInstruction :=
  fun _ hrun hfetch => step_of_fetch hrun hfetch

/-! ### Call and return -/

/-- Settles O30: the entry on top of the stack is the one that CALL pushed, and the pop takes back its depth. -/
theorem callThenReturn : Obligations.CallThenReturn := by
  intro nnn s t hsp h
  obtain ⟨-, hcall, -⟩ := callPushesAdvancedPc nnn s
  obtain ⟨t', ht', -, hpushed, hentry, hothers, hframe, hmem⟩ := hcall hsp
  obtain rfl : t = t' := by simpa [h] using ht'
  obtain ⟨-, hret, -⟩ := returnFromSubroutine
  obtain ⟨u, hu, hpopped, htop, hframe', hmem', -⟩ := hret t (by omega)
  have hdepth : t.sp.val - 1 = s.sp.val := by omega
  have hstack : u.stack = t.stack := (congrArg State.stack hframe' :)
  have hsp' : u.sp = s.sp := Fin.ext (by omega)
  rw [hdepth, hentry] at htop
  refine ⟨u, hu, (Option.some.inj htop).symm, hsp', fun k hk => ?_, ?_, fun a => (hmem' a).trans (hmem a)⟩
  · rw [hstack, hothers k (by omega)]
  · rw [hframe', hframe]
    simp [hsp']

/-! ### Store and load -/

/-- Settles O54: the bytes that the load reads are the registers stored (`blockStore`, `blockLoad`). -/
theorem blockStoreThenLoad : Obligations.BlockStoreThenLoad := by
  intro x s t v hm hin h
  obtain ⟨-, hstore, -⟩ := blockStore x s hm
  obtain ⟨t', ht', hstored, -⟩ := hstore hin
  obtain rfl : t = t' := by simpa [h] using ht'
  obtain ⟨-, hload, -⟩ := blockLoad x { t with v := v, i := s.i }
  obtain ⟨u, hu, hloaded, -⟩ := hload hin
  exact ⟨u, hu, fun k hk => (hloaded k hk).trans (hstored k hk)⟩

/-- Settles O55: the two bytes at the new PC are the first two registers stored. -/
theorem storeSeenByNextFetch : Obligations.StoreSeenByNextFetch := by
  intro x s hm hrun hpc hx hdec hi hin
  have hstep : step s = exec (.ldMemVx x) s := by rw [step_of_fetch hrun (by omega), hdec]
  obtain ⟨-, hstore, -⟩ := blockStore x s hm
  obtain ⟨t, ht, hstored, -, -, -, hpc', hframe⟩ := hstore hin
  have hrun' : t.running = true := (congrArg State.running hframe :).trans hrun
  have hvariant : t.variant = s.variant := (congrArg State.variant hframe :)
  have hbound : t.pc.toNat + 1 ≤ 4095 := by
    rw [hpc']
    bv_omega
  have hword : fetchWord t = s.reg 0 ++ s.reg 1 := by
    rw [fetchWord, hpc', ← hi]
    exact congrArg₂ _ (hstored 0 (Fin.zero_le x)) (hstored 1 hx)
  exact ⟨t, hstep.trans ht, by rw [step_of_fetch hrun' hbound, hvariant, hword]⟩

/-! ### The key wait (R247) -/

/-- A step at an Fx0A executes it. -/
theorem step_ldVxK {x : RegIdx} {s : State} (hrun : s.running = true) (hfetch : s.pc.toNat + 1 ≤ 4095)
    (hdec : decode s.variant (fetchWord s) = .ldVxK x) : step s = exec (.ldVxK x) s := by
  rw [step_of_fetch hrun hfetch, hdec]

/-- A machine that has observed key k. -/
def observing (k : RegIdx) (s : State) : State := { s with waitKey := true, waitIndex := k, waiting := true }

/-- The step behind the release of the observed key completes the instruction: the release touches neither the word at
PC nor the wait state. -/
theorem step_of_observed_released {x k : RegIdx} {s : State} (hrun : s.running = true) (hfetch : s.pc.toNat + 1 ≤ 4095)
    (hdec : decode s.variant (fetchWord s) = .ldVxK x) :
    ∃ t, step (hostSetKey k false (observing k s)) = .next t ∧ (t.reg x).toNat = k.val ∧ t.pc = s.pc + 2 ∧
      t.waiting = false ∧ t.waitKey = false := by
  have hup : (hostSetKey k false (observing k s)).keyDown k = false := by
    rw [HostOps.keyDown_hostSetKey, if_pos rfl]
  obtain ⟨-, -, -, -, hphase⟩ := keyWaitPhases x (hostSetKey k false (observing k s))
  obtain ⟨t, ht, hreg, -, hkey, hwaiting, hpc, -⟩ := hphase rfl hup
  exact ⟨t, (step_ldVxK (s := hostSetKey k false (observing k s)) hrun hfetch hdec).trans ht, hreg, hpc, hwaiting, hkey⟩

/-- Settles O46: the first step records k, which is up when the second step looks. -/
theorem keyWaitPressRelease : Obligations.KeyWaitPressRelease := by
  intro x k s hrun hfetch hdec hwait hk hlow
  have hpress : transition .step s = .next (observing k s) :=
    (step_ldVxK hrun hfetch hdec).trans (exec_ldVxK_of_keySeen x hwait (firstKeyDown_eq_some hk hlow))
  obtain ⟨t, hrelease, hdone⟩ := step_of_observed_released (k := k) hrun hfetch hdec
  refine ⟨⟨observing k s, runEvents_cons_next hpress, rfl, rfl, rfl⟩, t, ?_, hdone⟩
  calc runEvents [.step, .host (.setKey k false), .step] s
    _ = runEvents [.host (.setKey k false), .step] (observing k s) := runEvents_cons_next hpress
    _ = runEvents [.step] (hostSetKey k false (observing k s)) := runEvents_cons_next rfl
    _ = .next t := runEvents_cons_next hrelease

end Sys2Proof.Proofs.Sequence
end

section
/-! PROOFS. Random (43_index_jump_random.md R194): one masked byte. -/

namespace Sys2Proof.Proofs.Random

open Sys2Proof.Machine Sys2Proof.Proofs.JumpCallSkip

/-- A masked byte has no bit outside the mask. -/
theorem and_and_not_self (b kk : Byte) : b &&& kk &&& ~~~kk = 0 := by
  rw [BitVec.and_assoc, BitVec.and_not_self]
  exact BitVec.and_zero

theorem exec_rnd (x : RegIdx) (kk : Byte) (s : State) :
    exec (.rnd x kk) s = .next { rndWith (Config.rnd s.draws) x kk s with draws := s.draws + 1 } := rfl

/-- Settles O40: the instruction is one register write and the count of draws, whatever the byte drawn. -/
theorem randomMasked : Obligations.RandomMasked := by
  intro x kk s
  have hreg : (rndWith (Config.rnd s.draws) x kk s).reg x = Config.rnd s.draws &&& kk := State.reg_setReg_self ..
  refine ⟨decodesTo_packXK (fun _ _ _ _ => rfl) x kk, _, exec_rnd x kk s, hreg, ?_,
    fun k hk => State.reg_setReg_of_ne s.advance _ hk, rfl, rfl, rfl, fun _ => rfl⟩
  exact (congrArg (· &&& ~~~kk) hreg).trans (and_and_not_self ..)

end Sys2Proof.Proofs.Random
end

section
/-! PROOFS. The CHIP8 draw in closed form (44_draw.md R208), what it does not read (R201), and a sprite drawn twice
(R207): how often the target list names a pixel, and that every target lies in the plane. -/

namespace Sys2Proof.Proofs.DrawLaws

open Sys2Proof.Machine Sys2Proof.Proofs.Draw Sys2Proof.Proofs.Writers

/-! ### How often a target list names a pixel -/

/-- A count along `List.range` as the size of a set of numbers. -/
theorem countP_range_eq_card (p : Nat → Prop) [DecidablePred p] (n : Nat) :
    (List.range n).countP (fun c => decide (p c)) = ((Finset.range n).filter p).card := by
  rw [List.countP_eq_length_filter]
  rfl

/-- The multiplicity of a pixel is the number of set sprite bits placed on it. -/
theorem count_spriteTargets (bit : Nat → Nat → Bool) (place : Nat → Nat → Option (Nat × Nat)) (rows cols : Nat)
    (q : Nat × Nat) : (spriteTargets bit place rows cols).count q =
      ((Finset.range rows ×ˢ Finset.range cols).filter fun rc =>
        bit rc.1 rc.2 = true ∧ place rc.1 rc.2 = some q).card := by
  have hrow (r : Nat) : ((List.range cols).filterMap fun c => if bit r c then place r c else none).count q =
      ((Finset.range cols).filter fun c => bit r c = true ∧ place r c = some q).card := by
    rw [← countP_range_eq_card, List.count_filterMap]
    refine List.countP_congr fun c _ => ?_
    cases bit r c <;> simp
  rw [Finset.card_filter, Finset.sum_product, spriteTargets, List.count_flatMap]
  simp only [Function.comp_def, hrow, Finset.card_filter]
  rfl

/-- A CHIP8 draw reads neither the resolution nor the scroll offsets (R201, R203). -/
theorem geometry_chip8 {s : State} (hv : s.variant = .chip8) (n : Nibble) :
    geometry s.variant s.highRes n = ⟨false, n.toNat, 1⟩ := by
  rw [hv]
  rfl

theorem drawTargets_chip8 {s : State} (hv : s.variant = .chip8) (x y : RegIdx) (n : Nibble) :
    drawTargets s x y n = spriteTargets (spriteBit s.mem s.i.toNat 1)
      (clampPlace ((s.reg x).toNat % 64) ((s.reg y).toNat % 32)) n.toNat 8 := by
  have hplace (g : Geometry) : spritePlace s g x y = clampPlace ((s.reg x).toNat % 64) ((s.reg y).toNat % 32) := by
    funext r c
    rw [spritePlace, hv]
  rw [drawTargets, geometry_chip8 hv, hplace]
  rfl

theorem exec_drw_chip8 {s : State} (hv : s.variant = .chip8) (x y : RegIdx) (n : Nibble) :
    exec (.drw x y n) s = if accessOk s.i (n.toNat * 1) then .next (drawInto false (drawTargets s x y n) s.advance)
      else .next (s.raise .memFault) := by
  rw [exec_drw, accessBytes, geometry_chip8 hv]

/-- The multiplicity of a pixel in a CHIP8 draw is T(p) of R208. -/
theorem count_drawTargets_chip8 {s : State} (hv : s.variant = .chip8) (x y : RegIdx) (n : Nibble) (row col : Nat) :
    (drawTargets s x y n).count (row, col) = chip8Hits s x y n row col := by
  rw [drawTargets_chip8 hv, count_spriteTargets, chip8Hits]
  refine congrArg Finset.card (Finset.filter_congr fun rc hrc => ?_)
  have hcol : rc.2 < 8 := Finset.mem_range.1 (Finset.mem_product.1 hrc).2
  have hbit : spriteBit s.mem s.i.toNat 1 rc.1 rc.2 = (s.mem.read (s.i.toNat + rc.1)).getLsbD (7 - rc.2) := by
    rw [spriteBit, Nat.mul_one, Nat.div_eq_of_lt hcol, Nat.mod_eq_of_lt hcol, Nat.add_zero]
  rw [hbit, clampPlace, Option.some.injEq, Prod.mk.injEq]

/-! ### Every target lies in the plane (R203, R204) -/

theorem mem_plane_of_clampPlace {x0 y0 r c : Nat} {q : Nat × Nat} (h : clampPlace x0 y0 r c = some q) :
    q.1 < 32 ∧ q.2 < 64 := by
  cases h
  exact ⟨Nat.lt_succ_of_le (Nat.min_le_right ..), Nat.lt_succ_of_le (Nat.min_le_right ..)⟩

theorem mem_plane_of_mem_drawTargets {s : State} {x y : RegIdx} {n : Nibble} {hi : Bool}
    (hhi : (geometry s.variant s.highRes n).hi = hi) :
    ∀ q ∈ drawTargets s x y n, q.1 < planeHeight hi ∧ q.2 < planeWidth hi := by
  subst hhi
  intro q hq
  cases hv : s.variant with
  | chip8 =>
    rw [drawTargets_chip8 hv] at hq
    obtain ⟨r, -, c, -, -, hplace⟩ := mem_spriteTargets.1 hq
    exact mem_plane_of_clampPlace hplace
  | schip =>
    rw [← hv]
    exact ((mem_drawTargets_schip hv rfl x y q.1 q.2).1 hq).1

/-! ### The CHIP8 draw -/

theorem flagByte_eq_one_iff (b : Bool) : flagByte b = 1 ↔ b = true := by cases b <;> decide

theorem flagByte_eq_zero_or_one (b : Bool) : flagByte b = 0 ∨ flagByte b = 1 := by cases b <;> decide

/-- Settles O41: the plane, the collision and the toggle flag of the target list, with T(p) as the multiplicity of p. -/
theorem chip8DrawClosedForm : Obligations.Chip8DrawClosedForm := by
  intro x y n s hv hin
  have hg := geometry_chip8 hv n
  have hok : accessOk s.i (n.toNat * 1) = true := (accessOk_iff ..).2 (by omega)
  have hcount := count_drawTargets_chip8 hv x y n
  have hplane : ∀ q ∈ drawTargets s x y n, q.1 < 32 ∧ q.2 < 64 := mem_plane_of_mem_drawTargets (by rw [hg])
  have hmem (r c : Nat) : (r, c) ∈ drawTargets s x y n ↔ r < 32 ∧ c < 64 ∧ 1 ≤ chip8Hits s x y n r c := by
    rw [← hcount, List.one_le_count_iff]
    exact ⟨fun h => ⟨(hplane _ h).1, (hplane _ h).2, h⟩, fun ⟨_, _, h⟩ => h⟩
  have hvf : (drawInto false (drawTargets s x y n) s.advance).reg vfIdx =
      flagByte (xorPixels s.fbLo (drawTargets s x y n)).coll := State.reg_setReg_self ..
  refine ⟨_, exec_drw_of_inRange hg hok x y, fun r c _ _ => ?pixel, ?bit, ?collision, ?changed,
    fun _ => drawInto_reg_of_ne _ _ s.advance, rfl, rfl, fun _ => rfl⟩
  case pixel =>
    rw [← hcount]
    exact pixel_xorPixels s.fbLo hplane r c
  case bit =>
    rw [hvf]
    exact flagByte_eq_zero_or_one _
  case collision =>
    rw [hvf, flagByte_eq_one_iff, coll_xorPixels_iff s.fbLo hplane, Prod.exists]
    refine exists₂_congr fun r c => ?_
    rw [hcount]
    constructor
    · intro hhit
      have hone : 1 ≤ chip8Hits s x y n r c := by omega
      obtain ⟨hr, hc, -⟩ := (hmem r c).1 (by rwa [← List.one_le_count_iff, hcount])
      exact ⟨hr, hc, hhit⟩
    · rintro ⟨-, -, hhit⟩
      exact hhit
  case changed =>
    have hchanged : (drawInto false (drawTargets s x y n) s.advance).changed =
        (s.changed || (xorPixels s.fbLo (drawTargets s x y n)).toggled) := rfl
    rw [hchanged, Bool.or_eq_true, toggled_xorPixels_iff, Prod.exists]
    simp only [hmem]

/-! ### A sprite drawn twice (R207) -/

@[simp] theorem drawInto_variant (hi : Bool) (ts : List (Nat × Nat)) (s : State) :
    (drawInto hi ts s).variant = s.variant := by
  cases hi <;> rfl

@[simp] theorem drawInto_highRes (hi : Bool) (ts : List (Nat × Nat)) (s : State) :
    (drawInto hi ts s).highRes = s.highRes := by
  cases hi <;> rfl

@[simp] theorem drawInto_i (hi : Bool) (ts : List (Nat × Nat)) (s : State) : (drawInto hi ts s).i = s.i := by
  cases hi <;> rfl

@[simp] theorem drawInto_mem (hi : Bool) (ts : List (Nat × Nat)) (s : State) : (drawInto hi ts s).mem = s.mem := by
  cases hi <;> rfl

@[simp] theorem drawInto_scrollX (hi : Bool) (ts : List (Nat × Nat)) (s : State) :
    (drawInto hi ts s).scrollX = s.scrollX := by
  cases hi <;> rfl

@[simp] theorem drawInto_scrollY (hi : Bool) (ts : List (Nat × Nat)) (s : State) :
    (drawInto hi ts s).scrollY = s.scrollY := by
  cases hi <;> rfl

/-- What a draw writes is not among what places a sprite, unless a coordinate is in VF. -/
theorem drawTargets_drawInto {x y : RegIdx} (hx : x ≠ vfIdx) (hy : y ≠ vfIdx) (n : Nibble) (hi : Bool)
    (ts : List (Nat × Nat)) (s : State) : drawTargets (drawInto hi ts s) x y n = drawTargets s x y n := by
  have hplace (g : Geometry) : spritePlace (drawInto hi ts s) g x y = spritePlace s g x y := by
    funext r c
    simp only [spritePlace, drawInto_reg_of_ne hi ts s hx, drawInto_reg_of_ne hi ts s hy, drawInto_variant,
      drawInto_scrollX, drawInto_scrollY]
  simp only [drawTargets, hplace, drawInto_variant, drawInto_highRes, drawInto_mem, drawInto_i]

theorem pixel_xorPixels_twice {w h : Nat} (p : Plane w h) {ts : List (Nat × Nat)} (hts : ∀ q ∈ ts, q.1 < h ∧ q.2 < w)
    (r c : Nat) : (xorPixels (xorPixels p ts).plane ts).plane.pixel r c = p.pixel r c := by
  rw [pixel_xorPixels _ hts, pixel_xorPixels _ hts, Bool.xor_assoc, Bool.xor_self, Bool.xor_false]

theorem coll_of_lit {w h : Nat} {p : Plane w h} {ts : List (Nat × Nat)} (hts : ∀ q ∈ ts, q.1 < h ∧ q.2 < w)
    {q : Nat × Nat} (hq : q ∈ ts) (hlit : p.pixel q.1 q.2 = true) : (xorPixels p ts).coll = true :=
  (coll_xorPixels_iff p hts).2 ⟨q, .inl ⟨hlit, List.one_le_count_iff.2 hq⟩⟩

/-- The second draw of a target list toggles each pixel back, and collides with a target that the first left lit. -/
theorem drawInto_twice {hi : Bool} {ts : List (Nat × Nat)} (hts : ∀ q ∈ ts, q.1 < planeHeight hi ∧ q.2 < planeWidth hi)
    {s t u : State} (ht : t = drawInto hi ts s.advance) (hu : u = drawInto hi ts t.advance) :
    (∀ r c, u.fbLo.pixel r c = s.fbLo.pixel r c) ∧ (∀ r c, u.fbHi.pixel r c = s.fbHi.pixel r c) ∧
      ∀ q ∈ ts, (if hi then t.fbHi.pixel q.1 q.2 else t.fbLo.pixel q.1 q.2) = true → u.reg vfIdx = 1 := by
  subst ht hu
  have hvf {b : Bool} {s' : State} (hb : b = true) : (s'.setVF b).reg vfIdx = 1 := by
    rw [State.reg_setVF, if_pos rfl, hb]
    rfl
  cases hi with
  | false =>
    exact ⟨pixel_xorPixels_twice s.fbLo hts, fun _ _ => rfl, fun q hq hlit => hvf (coll_of_lit hts hq hlit)⟩
  | true =>
    exact ⟨fun _ _ => rfl, pixel_xorPixels_twice s.fbHi hts, fun q hq hlit => hvf (coll_of_lit hts hq hlit)⟩

/-- Settles O43: the second draw has the plane, the access and the targets of the first. -/
theorem drawTwiceRestores : Obligations.DrawTwiceRestores := by
  intro x y n s t hx hy hf h
  generalize hg : geometry s.variant s.highRes n = g
  have hok : accessOk s.i (g.rows * g.bpr) = true := by
    rw [← hg]
    exact accessOk_of_faultOf_eq_none hf
  obtain rfl : drawInto g.hi (drawTargets s x y n) s.advance = t := by
    rw [exec_drw_of_inRange hg hok] at h
    cases h
    rfl
  have hsecond := exec_drw_of_inRange (s := drawInto g.hi (drawTargets s x y n) s.advance) (n := n) (g := g)
    (by simpa using hg) (by simpa using hok) x y
  rw [drawTargets_drawInto hx hy] at hsecond
  have hplane := mem_plane_of_mem_drawTargets (x := x) (y := y) (congrArg Geometry.hi hg)
  obtain ⟨hlo, hhi, hcollides⟩ := drawInto_twice hplane rfl rfl
  exact ⟨_, hsecond, fun r c _ _ => hlo r c, fun r c _ _ => hhi r c, hcollides⟩

/-! ### What a draw and a shift ignore (R106, R201) -/

/-- The same state with another resolution and other scroll offsets. -/
def withView (s : State) (h : Bool) (sx sy : BitVec 16) : State := { s with highRes := h, scrollX := sx, scrollY := sy }

theorem drawInto_withView (hi : Bool) (ts : List (Nat × Nat)) (s : State) (h : Bool) (sx sy : BitVec 16) :
    drawInto hi ts (withView s h sx sy).advance = withView (drawInto hi ts s.advance) h sx sy := by
  cases hi <;> rfl

/-- Settles O38: the source of a shift under SCHIP is Vx, and the geometry and the targets of a CHIP8 draw are written
without the resolution and the scroll offsets. -/
theorem ignoredInputs : Obligations.IgnoredInputs := by
  refine ⟨fun x y y' s hv => ?shift, fun x y n s t h sx sy hv hexec => ?draw⟩
  case shift =>
    have hsource : shiftSource s x y = shiftSource s x y' := by rw [shiftSource_schip hv, shiftSource_schip hv]
    constructor
    · rw [exec, execShr, hsource]; rfl
    · rw [exec, execShl, hsource]; rfl
  case draw =>
    have htargets : drawTargets (withView s h sx sy) x y n = drawTargets s x y n := by
      rw [drawTargets_chip8 hv, drawTargets_chip8 (s := withView s h sx sy) hv]
      rfl
    change exec (.drw x y n) (withView s h sx sy) = .next (withView t h sx sy)
    rw [exec_drw_chip8 hv] at hexec
    rw [exec_drw_chip8 (s := withView s h sx sy) hv, htargets, drawInto_withView]
    by_cases hok : accessOk s.i (n.toNat * 1) = true
    · rw [if_pos hok] at hexec
      cases hexec
      exact if_pos hok
    · rw [if_neg hok] at hexec
      cases hexec
      exact if_neg hok

end Sys2Proof.Proofs.DrawLaws
end
